-- ==== Sys2Proof/Word.lean ====
section
/-!
DEFINITION. The widths the spec treats as bits, and the words its ports carry.
Widths are those of 00_scope.md R6; bit 0 is the least significant bit (R7).
-/

namespace Sys2Proof

/-- A segment pattern, one bit per segment (`PAT_W` = 8, R6, R24). -/
abbrev Pattern := BitVec 8

/-- Packed BCD, three nibbles (`BCD_W` = 12, R6, R42). -/
abbrev Bcd := BitVec 12

/-- A command word (`CMD_W` = 32, R6, R62). -/
abbrev CmdWord := BitVec 32

/-- The digit-enable lines, bit `i` for position `i` (R20, R27). -/
abbrev DigitLines := BitVec 3

/-- One digit position of the display, 0 (rightmost) to 2 (R40, R41). -/
abbrev Position := Fin 3

/-- The encoded form of an operation, on the port that carries its format (R60):
a command word on the command port (`CMD`), the sampled `TIMER_DUE` bit (`EVT`, R70), or the input field
of a function port (`FN`, R66). -/
inductive PortWord where
  | command (w : CmdWord)
  | timer (due : Bool)
  | bin (v : BitVec 10)
  | sym (c : BitVec 5)
  deriving DecidableEq, Repr

end Sys2Proof
end

