-- ==== Sys2Proof/Syntax.lean ====
section
/-!
DEFINITION. The operations of the block: one constructor per row of spec/opcode_table.json (R60).
Operands are the mathematical integers the spec assembles from the fields (R7, R64, R65, R66);
`WellFormed` says which of them fit their fields (R71).
-/

namespace Sys2Proof

/-- The six operations of the block (R1, R60). -/
inductive Instr where
  /-- `display_integer value` (R110). -/
  | displayInteger (value : Int)
  /-- `display_fixed_point mantissa, exponent` (R113). -/
  | displayFixedPoint (mantissa exponent : Int)
  /-- `display_error` (R118). -/
  | displayError
  /-- `refresh_tick`, the tick event (R141). -/
  | refreshTick
  /-- `BCD_ENCODE(v)`, a pure function (R80). -/
  | bcdEncode (v : Nat)
  /-- `SEG_MAP(s)`, a pure function (R90). -/
  | segMap (s : Nat)
  deriving DecidableEq, Repr

end Sys2Proof
end

