-- ==== Sys2Proof/WellFormed.lean ====
section
/-!
DEFINITION. Which operations can be written down: every operand fits the field that carries it (R71, R64, R65, R66).
-/

namespace Sys2Proof

/-- A value or mantissa fits the 16-bit two's complement field `VAL` (R64, R71). -/
abbrev fitsVal (x : Int) : Prop := -32768 ≤ x ∧ x ≤ 32767

/-- An exponent fits the 8-bit two's complement field `EXP` (R65, R71). -/
abbrev fitsExp (x : Int) : Prop := -128 ≤ x ∧ x ≤ 127

/-- The input of `BCD_ENCODE` fits the 10-bit port `BIN` (R66). The contract 0..999 of R82 is narrower. -/
abbrev fitsBin (v : Nat) : Prop := v < 1024

/-- A symbol code fits the 5-bit port `SYM` (R66). -/
abbrev fitsSym (c : Nat) : Prop := c < 32

/-- The assembler's check: it "refuses an operand that does not fit" (R71). -/
def Instr.wf : Instr → Bool
  | .displayInteger v => decide (fitsVal v)
  | .displayFixedPoint m e => decide (fitsVal m ∧ fitsExp e)
  | .displayError => true
  | .refreshTick => true
  | .bcdEncode v => decide (fitsBin v)
  | .segMap c => decide (fitsSym c)

end Sys2Proof
end

