-- ==== Sys2Proof/Decode.lean ====
section
/-!
DEFINITION. Decoding the words of the ports, and encoding (30_encoding.md). The decoder is total on every word of
every port and names its reason where a word stands for no operation.
-/

namespace Sys2Proof

/-- Why a port word stands for no operation. The first four are the cases (a) to (d) of R67; such a command word is
ignored by the block. `noTick` is `TIMER_DUE` sampled 0 (R140). -/
inductive Ignored where
  /-- R67(a): `OP` is 0x0 or 0x4 to 0xF. -/
  | reservedOp
  /-- R67(b): `RSV` is not 0. -/
  | reservedBits
  /-- R67(c): `display_integer` with a nonzero `EXP`. -/
  | integerExponent
  /-- R67(d): `display_error` with a nonzero `CMD[23:0]`. -/
  | errorOperand
  /-- R140: no tick in this step. -/
  | noTick
  deriving DecidableEq, Repr

/-- What a port word stands for: an operation, or nothing (IGNORED in R69). -/
inductive Decoded where
  | instr (i : Instr)
  | ignored (why : Ignored)
  deriving DecidableEq, Repr

/-- `OP` = CMD[31:28] (R62). -/
def opField (w : CmdWord) : BitVec 4 := w.extractLsb' 28 4

/-- `RSV` = CMD[27:24] (R62). -/
def rsvField (w : CmdWord) : BitVec 4 := w.extractLsb' 24 4

/-- `EXP` = CMD[23:16] (R62). -/
def expField (w : CmdWord) : BitVec 8 := w.extractLsb' 16 8

/-- `VAL` = CMD[15:0] (R62). -/
def valField (w : CmdWord) : BitVec 16 := w.extractLsb' 0 16

/-- The value operand, sext_16(CMD[15:0]) (R64). -/
def valOperand (w : CmdWord) : Int := (valField w).toInt

/-- The exponent operand, sext_8(CMD[23:16]) (R65). -/
def expOperand (w : CmdWord) : Int := (expField w).toInt

/-- Decoding a command word: the pseudocode of R69. -/
def decodeCommand (w : CmdWord) : Decoded :=
  if rsvField w ≠ 0#4 then .ignored .reservedBits
  else if opField w = 1#4 then
    if expField w = 0#8 then .instr (.displayInteger (valOperand w)) else .ignored .integerExponent
  else if opField w = 2#4 then .instr (.displayFixedPoint (valOperand w) (expOperand w))
  else if opField w = 3#4 then
    if expField w = 0#8 ∧ valField w = 0#16 then .instr .displayError else .ignored .errorOperand
  else .ignored .reservedOp

/-- Decoding the word of any port (R60): a command word, the tick bit (R70), or a function input (R66). -/
def decode : PortWord → Decoded
  | .command w => decodeCommand w
  | .timer due => if due then .instr .refreshTick else .ignored .noTick
  | .bin v => .instr (.bcdEncode v.toNat)
  | .sym c => .instr (.segMap c.toNat)

/-- A command word put together from its fields, with `RSV` = 0 (R62, R71). -/
def packCommand (op : BitVec 4) (exp : BitVec 8) (val : BitVec 16) : CmdWord :=
  op ++ 0#4 ++ exp ++ val

/-- The word of an operation on the port that carries it (R62 to R66, R70). On a well-formed operation the decoder
gives the operation back. -/
def encode : Instr → PortWord
  | .displayInteger v => .command (packCommand 1#4 0#8 (BitVec.ofInt 16 v))
  | .displayFixedPoint m e => .command (packCommand 2#4 (BitVec.ofInt 8 e) (BitVec.ofInt 16 m))
  | .displayError => .command (packCommand 3#4 0#8 0#16)
  | .refreshTick => .timer true
  | .bcdEncode v => .bin (BitVec.ofNat 10 v)
  | .segMap c => .sym (BitVec.ofNat 5 c)

/-- The port word that `nbits` bits of value `w` stand for, in the opcode table's numbering (DESIGN CHOICE, safe,
log 10). The table gives a
command word 32 bits, the tick 1 bit, `BIN` 10 bits and `SYM` 5 bits; in whole bytes those are 32, 8, 16 and 8. In
8 bits the word 1 is read as the tick and every other word below 32 as a symbol code. -/
def tablePortWord (nbits w : Nat) : Option PortWord :=
  if nbits = 32 then if w < 2 ^ 32 then some (.command (BitVec.ofNat 32 w)) else none
  else if nbits = 1 then if w < 2 then some (.timer (w == 1)) else none
  else if nbits = 10 ∨ nbits = 16 then if w < 1024 then some (.bin (BitVec.ofNat 10 w)) else none
  else if nbits = 5 then if w < 32 then some (.sym (BitVec.ofNat 5 w)) else none
  else if nbits = 8 then
    if w = 1 then some (.timer true) else if w < 32 then some (.sym (BitVec.ofNat 5 w)) else none
  else none

/-- The operation the decoder reads from an opcode-table word of `nbits` bits, or none where it refuses. -/
def decodeTableWord (nbits w : Nat) : Option Instr :=
  match tablePortWord nbits w with
  | none => none
  | some p =>
    match decode p with
    | .instr i => some i
    | .ignored _ => none

end Sys2Proof
end

