-- ==== Sys2Proof/Config.lean ====
section
/-!
DEFINITION. What is fixed when the block is built (R6, R29), and the one value the spec leaves free (R47).
The default parameter values stand in Machine/Glyphs.lean.
-/

namespace Sys2Proof

/-- The eight segments of a digit position, in the source's order (R24). -/
inductive Segment where
  | up | ul | ur | mid | ll | lr | bot | dp
  deriving DecidableEq, Repr

/-- The Digit Symbol space: 20 symbols (R91, R12). `hexA` to `hexF` are the letters A to F, `dash` is the
"R"-like error glyph. -/
inductive Symbol where
  | hex0 | hex1 | hex2 | hex3 | hex4 | hex5 | hex6 | hex7 | hex8 | hex9
  | hexA | hexB | hexC | hexD | hexE | hexF
  | dot | minus | dash | blank
  deriving DecidableEq, Repr

/-- The content of the constant glyph table, one entry per symbol (R21, R92). It is a parameter of the block
(R6, U8): a claim about every state holds for every table. -/
structure GlyphTable where
  hex0 : Pattern
  hex1 : Pattern
  hex2 : Pattern
  hex3 : Pattern
  hex4 : Pattern
  hex5 : Pattern
  hex6 : Pattern
  hex7 : Pattern
  hex8 : Pattern
  hex9 : Pattern
  hexA : Pattern
  hexB : Pattern
  hexC : Pattern
  hexD : Pattern
  hexE : Pattern
  hexF : Pattern
  dot : Pattern
  minus : Pattern
  dash : Pattern
  blank : Pattern
  deriving DecidableEq, Repr

/-- The parameters of R6 that a model takes as arguments. No operation reads or writes them but for `glyph`,
which the mapper reads (R21, R29). -/
structure Config where
  /-- `GLYPH` (R21, R92, D4). -/
  glyph : GlyphTable
  /-- `MUX_RESET_IDX`: the index reset leaves (R31, D14). -/
  muxResetIdx : Position
  /-- `REFRESH_INTERVAL` of the timer collaborator, in milliseconds; no rule reads it (R144, D23). -/
  refreshIntervalMs : Nat
  deriving DecidableEq, Repr

/-- FREE VALUE (DESIGN CHOICE, safe, log 3). When a command and a tick arrive in one step, whether the command comes first. The order
"is not fixed" (R47, U7): nothing is known of this function, and a claim holds for both of its values. Its
argument is the counter `State.arbCount`, so that each such step may choose anew. -/
opaque Config.commandFirst : Nat → Bool

end Sys2Proof
end

