-- ==== Sys2Proof/Machine/Glyphs.lean ====
section
/-!
DEFINITION. The segment layout, the symbol codes, the mapping function and the default parameters:
41_segment_mapper.md and the parameter table R6. The bit values of the default table are the spec's own default
(R92, D4, log 7); everything else here holds for any table.
-/

namespace Sys2Proof.Machine

/-- The bit of a pattern that a segment lights (R24). -/
def segmentBit : Segment → Nat
  | .up => 0
  | .ul => 1
  | .ur => 2
  | .mid => 3
  | .ll => 4
  | .lr => 5
  | .bot => 6
  | .dp => 7

/-- The mask of one segment (R24): a 1 means lit. -/
def segmentMask (g : Segment) : Pattern := 1#8 <<< segmentBit g

/-- The pattern that lights exactly the given segments. -/
def lit : List Segment → Pattern
  | [] => 0#8
  | g :: rest => segmentMask g ||| lit rest

/-- The decimal-point bit of a pattern, `p[7]` (R24, R96). -/
def pointLit (p : Pattern) : Bool := p.getLsbD (segmentBit .dp)

/-- The default content of `GLYPH`, by its "lit segments" column (R92). PRESUMED: the letterforms are the
spec's default from general knowledge; unsafe for a claim about exact bits (log 7). -/
def glyphDefault : GlyphTable where
  hex0 := lit [.up, .ul, .ur, .ll, .lr, .bot]
  hex1 := lit [.ur, .lr]
  hex2 := lit [.up, .ur, .mid, .ll, .bot]
  hex3 := lit [.up, .ur, .mid, .lr, .bot]
  hex4 := lit [.ul, .ur, .mid, .lr]
  hex5 := lit [.up, .ul, .mid, .lr, .bot]
  hex6 := lit [.up, .ul, .mid, .ll, .lr, .bot]
  hex7 := lit [.up, .ur, .lr]
  hex8 := lit [.up, .ul, .ur, .mid, .ll, .lr, .bot]
  hex9 := lit [.up, .ul, .ur, .mid, .lr, .bot]
  hexA := lit [.up, .ul, .ur, .mid, .ll, .lr]
  hexB := lit [.ul, .mid, .ll, .lr, .bot]
  hexC := lit [.up, .ul, .ll, .bot]
  hexD := lit [.ur, .mid, .ll, .lr, .bot]
  hexE := lit [.up, .ul, .mid, .ll, .bot]
  hexF := lit [.up, .ul, .mid, .ll]
  dot := lit [.dp]
  minus := lit [.mid]
  dash := lit [.mid, .ll]
  blank := lit []

/-- The default parameters (R6): the default table, `MUX_RESET_IDX` = 0, `REFRESH_INTERVAL` = "~10 ms". -/
def configDefault : Config where
  glyph := glyphDefault
  muxResetIdx := 0
  refreshIntervalMs := 10

/-- The table entry of a symbol: "each mapped to exactly one fixed Segment Pattern" (R91). -/
def glyphOf (g : GlyphTable) : Symbol → Pattern
  | .hex0 => g.hex0
  | .hex1 => g.hex1
  | .hex2 => g.hex2
  | .hex3 => g.hex3
  | .hex4 => g.hex4
  | .hex5 => g.hex5
  | .hex6 => g.hex6
  | .hex7 => g.hex7
  | .hex8 => g.hex8
  | .hex9 => g.hex9
  | .hexA => g.hexA
  | .hexB => g.hexB
  | .hexC => g.hexC
  | .hexD => g.hexD
  | .hexE => g.hexE
  | .hexF => g.hexF
  | .dot => g.dot
  | .minus => g.minus
  | .dash => g.dash
  | .blank => g.blank

/-- The symbol a code stands for at the `SEG_MAP` port, if any (R91). -/
def symbolOfCode : Nat → Option Symbol
  | 0x00 => some .hex0
  | 0x01 => some .hex1
  | 0x02 => some .hex2
  | 0x03 => some .hex3
  | 0x04 => some .hex4
  | 0x05 => some .hex5
  | 0x06 => some .hex6
  | 0x07 => some .hex7
  | 0x08 => some .hex8
  | 0x09 => some .hex9
  | 0x0A => some .hexA
  | 0x0B => some .hexB
  | 0x0C => some .hexC
  | 0x0D => some .hexD
  | 0x0E => some .hexE
  | 0x0F => some .hexF
  | 0x10 => some .dot
  | 0x11 => some .minus
  | 0x12 => some .dash
  | 0x13 => some .blank
  | _ => none

/-- `SEG_MAP(s)` (R90): the table entry of a symbol code, and BLANK for a code outside the symbol space (R93,
the error class SYMBOL of R162). -/
def segMap (g : GlyphTable) (s : Nat) : Pattern :=
  match symbolOfCode s with
  | some y => glyphOf g y
  | none => g.blank

/-- `ERR_E` = SEG_MAP(0x0E), the hex digit E (R94). -/
def errE (g : GlyphTable) : Pattern := segMap g 0x0E

/-- `ERR_R` = SEG_MAP(0x12), the DASH symbol (R94). -/
def errR (g : GlyphTable) : Pattern := segMap g 0x12

end Sys2Proof.Machine
end

