-- ==== Sys2Proof/Machine/ResetValues.lean ====
section
/-!
DEFINITION. The values reset leaves in the latches and in the framebuffer (R30, R32, R181). The reset value of `IDX` is
the parameter `MUX_RESET_IDX` (R31).
-/

namespace Sys2Proof.Machine

/-- What a framebuffer position that no cell lists reads as: the reset content, BLANK = 0x00 (R30, log 8). -/
def unlistedByte : Pattern := 0x00#8

/-- `SEG_OUT` after reset (R32). -/
def resetSegOut : Pattern := 0x00#8

/-- `DIG_EN` after reset (R32). -/
def resetDigEn : DigitLines := 0b000#3

/-- `TIMER_REARM` after reset (R32). -/
def resetTimerRearm : Bool := false

end Sys2Proof.Machine
end

