-- ==== Sys2Proof/Machine/State.lean ====
section
/-!
DEFINITION. The state of the block (10_state.md R20), its outputs, the environment that presents its inputs, and the reasons a
step can stop.
-/

namespace Sys2Proof.Machine

/-- The framebuffer, the block's one addressable store (R40): a list of (position, pattern) cells in one canonical form,
positions strictly rising and no cell equal to what an unlisted position reads as (DESIGN CHOICE, safe,
log 8). -/
abbrev Memory := List Host.Cell

/-- A whole framebuffer content in position order, `[FB[0], FB[1], FB[2]]` (R9). -/
structure Frame where
  p0 : Pattern
  p1 : Pattern
  p2 : Pattern
  deriving DecidableEq, Repr

/-- An observable output event (R8 `emit`, R141): the block drives its digit-enable lines or its segment lines. -/
inductive OutEvent where
  | digEn (v : DigitLines)
  | segOut (v : Pattern)
  deriving DecidableEq, Repr

/-- What the environment presents at the ports in one step: the wires of the command port and of the timer (R22, R61,
R140), or, in a step of its own, an input at one of the two function ports (R66; DESIGN CHOICE, safe, log 5). -/
inductive StepInput where
  | ports (cmdValid : Bool) (cmd : CmdWord) (timerDue : Bool)
  | bin (v : BitVec 10)
  | sym (c : BitVec 5)
  deriving DecidableEq, Repr

/-- The block's architectural state: exactly the elements of R20. No input has a place in it (R22). -/
structure Block where
  /-- `FB[0..2]` (R20). -/
  fb : Memory
  /-- `IDX`, the Multiplex Index (R20, R26). -/
  idx : Position
  /-- `SEG_OUT`, the segment-line latch (R20, R27). -/
  segOut : Pattern
  /-- `DIG_EN`, the digit-enable latch (R20, R27). -/
  digEn : DigitLines
  deriving DecidableEq, Repr

/-- The outputs, recorded so that they can be looked at (DESIGN CHOICE, safe, log 4). No operation reads them. -/
structure Outputs where
  /-- Output `TIMER_REARM` of the last step (R22, R143). -/
  timerRearm : Bool
  /-- Output `BCD[11:0]` of the last step, where it evaluated `BCD_ENCODE` (R66, log 4). -/
  bcdOut : Option Bcd
  /-- Output `PAT[7:0]` of the last step, where it evaluated `SEG_MAP` (R66, log 4). -/
  patOut : Option Pattern
  /-- The observable output-event sequence, oldest first (R8, R142, log 4). -/
  events : List OutEvent
  deriving DecidableEq, Repr

/-- The closed machine that the host's `step` runs: the block (R20), its outputs (R22, R148) and its constants (R6, R21),
and beside them the environment of the model's own, `inputs` and `arbCount` (log 1, log 3). The step of R22, with its inputs
as arguments and over `Block` alone, is `blockStep` of Machine/Cycle.lean. -/
structure State extends Block, Outputs where
  /-- The build-time parameters, the constant table `GLYPH` among them (R6, R21). Nothing writes them. -/
  config : Config
  /-- The environment's, no state of the block: what it presents in the coming steps, next step first. The host's `step` takes no
  argument (DESIGN CHOICE, safe, log 1). -/
  inputs : List StepInput
  /-- The model's own: the counter of the free value `Config.commandFirst` (log 3). -/
  arbCount : Nat
  deriving DecidableEq, Repr

/-- The reasons the machine can stop with a fault: none. The block "raises no exceptions and has no trap mechanism"
(R160), and no failure mode is visible to it (R163). DEDUCED, safe (log 14). -/
inductive Fault
  deriving DecidableEq, Repr

/-- The reasons an input has no meaning. -/
inductive Refusal where
  /-- Raised by an arm of `exec` for an instruction that is not modelled yet. No arm raises it. Safe: nothing follows. -/
  | notModelled (mnemonic : String)
  /-- Raised by `BCD_ENCODE` of an input above 999, which "has no meaning there" (R82, D19). Safe: nothing follows. -/
  | bcdAbove999
  deriving DecidableEq, Repr

/-- The block with parameters `c` right after reset (R181): every position BLANK, `IDX` at `MUX_RESET_IDX`, the latches
and `TIMER_REARM` at 0. Nothing has been output and nothing is presented (log 9). -/
def State.resetOf (c : Config) : State where
  fb := []
  idx := c.muxResetIdx
  segOut := resetSegOut
  digEn := resetDigEn
  config := c
  timerRearm := resetTimerRearm
  bcdOut := none
  patOut := none
  events := []
  inputs := []
  arbCount := 0

/-- The block with the default parameters right after reset (R181). -/
def State.reset : State := State.resetOf configDefault

end Sys2Proof.Machine
end

