-- ==== Sys2Proof/Machine/Ops.lean ====
section
/-!
DEFINITION. The named operations over the framebuffer, the index, the latches and the outputs. Everything an instruction
changes goes through one of these. The block takes no exception and returns from none (R160, R166): an error
condition ends in an ordinary commit, of the error display (Machine/Formatter.lean).
-/

namespace Sys2Proof.Machine

/-- The pattern at one position of a frame. -/
def Frame.get (f : Frame) : Position → Pattern
  | 0 => f.p0
  | 1 => f.p1
  | 2 => f.p2

/-- A frame with one position replaced. -/
def Frame.set (f : Frame) (i : Position) (p : Pattern) : Frame :=
  match i with
  | 0 => { f with p0 := p }
  | 1 => { f with p1 := p }
  | 2 => { f with p2 := p }

/-! ### The framebuffer (20_memory.md) -/

/-- `FB[i]`: the pattern at a position (R8, R44). -/
def Memory.read : Memory → Position → Pattern
  | [], _ => unlistedByte
  | (a, p) :: rest, i => if a = i.val then p else Memory.read rest i

/-- The whole content of the framebuffer. -/
def Memory.frame (m : Memory) : Frame := ⟨Memory.read m 0, Memory.read m 1, Memory.read m 2⟩

/-- The cell of one position, absent where the position reads as an unlisted one does. -/
def cellOf (a : Nat) (p : Pattern) : Memory := if p = unlistedByte then [] else [(a, p)]

/-- The canonical list of cells of a content. -/
def Memory.ofFrame (f : Frame) : Memory := cellOf 0 f.p0 ++ cellOf 1 f.p1 ++ cellOf 2 f.p2

/-- `FB[i] <- p`: a whole-position overwrite (R44). The result is canonical whatever the list was. -/
def Memory.write (m : Memory) (i : Position) (p : Pattern) : Memory :=
  Memory.ofFrame ((Memory.frame m).set i p)

/-- The canonical form: positions strictly rising from `lo` on, each one of {0, 1, 2} (R40), and no cell that
reads as an unlisted position does. -/
def Memory.wfFrom : Nat → Memory → Bool
  | _, [] => true
  | lo, (a, p) :: rest => decide (lo ≤ a) && decide (a < 3) && decide (p ≠ unlistedByte) && Memory.wfFrom (a + 1) rest

/-- The canonical form of the framebuffer's list of cells (log 8). -/
def Memory.wf (m : Memory) : Bool := Memory.wfFrom 0 m

/-- `commit F`: "FB[0] <- F0; FB[1] <- F1; FB[2] <- F2, performed as one atomic write" (42_formatter.md, R45). -/
def State.commit (s : State) (f : Frame) : State :=
  { s with fb := Memory.write (Memory.write (Memory.write s.fb 0 f.p0) 1 f.p1) 2 f.p2 }

/-! ### The index, the latches and the outputs (43_mux_scheduler.md) -/

/-- (IDX + 1) mod 3 (R141). -/
def nextPosition (i : Position) : Position := ⟨(i.val + 1) % 3, Nat.mod_lt _ (by decide)⟩

/-- `onehot3(i)`: the 3-bit value with only bit `i` set (R7). -/
def onehot3 (i : Position) : DigitLines := 1#3 <<< i.val

/-- `IDX <- i` (R8). -/
def State.setIdx (s : State) (i : Position) : State := { s with idx := i }

/-- `emit(DIG_EN <- v)`: drives the digit-enable latch and records the event (R8, R141). -/
def State.emitDigEn (s : State) (v : DigitLines) : State :=
  { s with digEn := v, events := s.events ++ [.digEn v] }

/-- `emit(SEG_OUT <- v)`: drives the segment latch and records the event (R8, R141). -/
def State.emitSegOut (s : State) (v : Pattern) : State :=
  { s with segOut := v, events := s.events ++ [.segOut v] }

/-- `TIMER_REARM <- 1` (R8, R143). -/
def State.rearm (s : State) : State := { s with timerRearm := true }

/-- The function port `BCD_ENCODE` shows a result (R66). -/
def State.showBcd (s : State) (b : Bcd) : State := { s with bcdOut := some b }

/-- The function port `SEG_MAP` shows a result (R66). -/
def State.showPat (s : State) (p : Pattern) : State := { s with patOut := some p }

/-- A new step begins: the outputs of the last step are gone, `TIMER_REARM` is 0 unless this step ticks (R22, R140). -/
def State.clearOutputs (s : State) : State :=
  { s with timerRearm := false, bcdOut := none, patOut := none }

/-- The inputs of the coming steps (log 1). -/
def State.setInputs (s : State) (l : List StepInput) : State := { s with inputs := l }

/-- One more use of the free order of a command and a tick (log 3). -/
def State.nextArb (s : State) : State := { s with arbCount := s.arbCount + 1 }

/-- Reset of a running block, from outside it ("restart", R180): every element of R181 at its reset value, the parameters
unaffected. What the environment will present and the free value's counter are not the block's and stay (DESIGN CHOICE,
unsafe for claims about interrupted runs, log 12). -/
def State.restart (s : State) : State :=
  { State.resetOf s.config with inputs := s.inputs, arbCount := s.arbCount }

end Sys2Proof.Machine
end

