-- ==== Sys2Proof/Machine/Operands.lean ====
section
/-!
DEFINITION. The numbers the commands compute from their operands: packed BCD, its digits, the exact scaled value and the
point's position (40_bcd_encoder.md, R83, R114, R115). The fields of the words themselves are taken apart in Decode.lean.
-/

namespace Sys2Proof.Machine

/-- The loop of `BCD_ENCODE` (R80), at most `fuel` rounds of it. -/
def bcdLoop : (fuel v off : Nat) → Bcd → Bcd
  | 0, _, _, r => r
  | fuel + 1, v, off, r =>
    if v = 0 then r else bcdLoop fuel (v / 10) (off + 4) (r ||| (BitVec.ofNat 12 (v % 10) <<< off))

/-- `BCD_ENCODE(v)` for a `v` within the contract 0..999 (R80, R82). Three rounds always end the loop there. -/
def bcdEncode (v : Nat) : Bcd := bcdLoop 3 v 0 0#12

/-- `digit(i) = BCD[4*i+3 : 4*i]` (R83). -/
def digit (b : Bcd) (i : Nat) : Nat := (b.extractLsb' (4 * i) 4).toNat

/-- The exact product mantissa * 10^exponent, for an exponent that is not negative (R113, R115). -/
def scaled (mantissa exponent : Int) : Int := mantissa * 10 ^ exponent.toNat

/-- The position of the decimal point, `k = -exponent`, for an exponent of -1 or -2 (R114). -/
def pointPosition (exponent : Int) : Position := if exponent = -1 then 1 else 2

end Sys2Proof.Machine
end

