-- ==== Sys2Proof/Machine/Flags.lean ====
section
/-!
DEFINITION. The conditions the commands test. The block has no flags: no operation writes one and no error is recorded in
one (R29, R160). What stands here is the range checks (R6, R111) and the two error classes the spec names (R161, R162),
whose names are "not codes that the hardware records".
-/

namespace Sys2Proof.Machine

/-- `in_int_range(x)`: INT_MIN ≤ x ≤ INT_MAX (R6, R111). -/
def inIntRange (x : Int) : Bool := decide (-99 ≤ x ∧ x ≤ 999)

/-- EXP_MIN ≤ e ≤ EXP_MAX (R6, R113). -/
def inExpRange (e : Int) : Bool := decide (-2 ≤ e ∧ e ≤ 2)

/-- The contract of `BCD_ENCODE`, 0 ≤ v ≤ 999 (R82). -/
def inBcdContract (v : Nat) : Bool := decide (v ≤ 999)

/-- The two error classes, both non-fatal (R160). -/
inductive ErrorClass where
  /-- An out-of-range value (R161). -/
  | range
  /-- An out-of-range symbol code (R162). -/
  | symbol
  deriving DecidableEq, Repr

/-- The error class an operation meets, if any: the causes (a) to (d) of R161 and the cause of R162. Nothing in the
machine reads or records it. -/
def errorClassOf : Instr → Option ErrorClass
  | .displayInteger v => if inIntRange v then none else some .range
  | .displayFixedPoint m e =>
    if ¬ inExpRange e then some .range
    else if 0 ≤ e then if inIntRange (scaled m e) then none else some .range
    else if inIntRange m then none
    else some .range
  | .segMap c => if c ≤ 0x13 then none else some .symbol
  | .displayError => none
  | .refreshTick => none
  | .bcdEncode _ => none

end Sys2Proof.Machine
end

