-- ==== Sys2Proof/Machine/Formatter.lean ====
section
/-!
DEFINITION. The Number Formatter: the three commands, the only writers of the framebuffer (42_formatter.md). Each computes
a whole new frame from its operands and commits it.
-/

namespace Sys2Proof.Machine

/-- `ERROR_FB` = [ERR_R, ERR_R, ERR_E] (R111, R118). -/
def errorFrame (g : GlyphTable) : Frame := ⟨errR g, errR g, errE g⟩

/-- `render_int(x)` (R111, R112), for an `x` in range: the ones digit always, higher digits unless they are leading
zeros, and a minus in position 2. -/
def renderInt (g : GlyphTable) (x : Int) : Frame :=
  let b := bcdEncode x.natAbs
  let d0 := digit b 0
  let d1 := digit b 1
  let d2 := digit b 2
  let f0 := segMap g d0
  let f1 := if d2 = 0 ∧ d1 = 0 then g.blank else segMap g d1
  let f2 := if d2 = 0 then g.blank else segMap g d2
  ⟨f0, f1, if x < 0 then g.minus else f2⟩

/-- Forces "0" on a stripped leading zero: `if F[j] == SEG_BLANK: F[j] <- SEG_HEX(0)` (R114). -/
def forceZero (g : GlyphTable) (f : Frame) (j : Position) : Frame :=
  if f.get j = g.blank then f.set j (segMap g 0) else f

/-- The positions from 1 up to the point's position, `for j in 1 .. k` (R114). -/
def pointRange : Position → List Position
  | 0 => []
  | 1 => [1]
  | 2 => [1, 2]

/-- `place_point(F, k)` (R114). -/
def placePoint (g : GlyphTable) (f : Frame) (k : Position) : Frame :=
  let f' := (pointRange k).foldl (forceZero g) f
  f'.set k (f'.get k ||| g.dot)

/-- The frame `display_integer value` commits (R110). -/
def formatInteger (g : GlyphTable) (value : Int) : Frame :=
  if inIntRange value then renderInt g value else errorFrame g

/-- The frame `display_fixed_point mantissa, exponent` commits (R113). -/
def formatFixedPoint (g : GlyphTable) (mantissa exponent : Int) : Frame :=
  if ¬ inExpRange exponent then errorFrame g
  else if 0 ≤ exponent then formatInteger g (scaled mantissa exponent)
  else if ¬ inIntRange mantissa then errorFrame g
  else placePoint g (renderInt g mantissa) (pointPosition exponent)

/-- `display_integer` (R110). -/
def execDisplayInteger (value : Int) (s : State) : Host.Outcome State Fault Refusal :=
  .next (s.commit (formatInteger s.config.glyph value))

/-- `display_fixed_point` (R113 to R117). -/
def execDisplayFixedPoint (mantissa exponent : Int) (s : State) : Host.Outcome State Fault Refusal :=
  .next (s.commit (formatFixedPoint s.config.glyph mantissa exponent))

/-- `display_error` (R118). -/
def execDisplayError (s : State) : Host.Outcome State Fault Refusal :=
  .next (s.commit (errorFrame s.config.glyph))

end Sys2Proof.Machine
end

