-- ==== Sys2Proof/Machine/Functions.lean ====
section
/-!
DEFINITION. The two pure functions at their own ports (R60, R66): they write no state and show their result at the port.
-/

namespace Sys2Proof.Machine

/-- `BCD_ENCODE` (R80). Above 999 the function "has no meaning": refused (R82, log 6). -/
def execBcdEncode (v : Nat) (s : State) : Host.Outcome State Fault Refusal :=
  if inBcdContract v then .next (s.showBcd (bcdEncode v)) else .refused .bcdAbove999

/-- `SEG_MAP` (R90, R93). -/
def execSegMap (c : Nat) (s : State) : Host.Outcome State Fault Refusal :=
  .next (s.showPat (segMap s.config.glyph c))

end Sys2Proof.Machine
end

