-- ==== Sys2Proof/Machine/Scheduler.lean ====
section
/-!
DEFINITION. The Multiplex Scheduler: the tick (43_mux_scheduler.md).
-/

namespace Sys2Proof.Machine

/-- The three phases that show position `i`, in their order: all digit lines off, then the segments, then the one
line on (R141, R142: break before make). -/
def State.showPosition (s : State) (i : Position) : State :=
  ((s.emitDigEn 0b000#3).emitSegOut (s.fb.read i)).emitDigEn (onehot3 i)

/-- `refresh_tick` (R141): the index advances before the output is driven, and the timer is rearmed in the same step
(R143). -/
def execRefreshTick (s : State) : Host.Outcome State Fault Refusal :=
  let i := nextPosition s.idx
  .next ((s.setIdx i).showPosition i).rearm

end Sys2Proof.Machine
end

