-- ==== Sys2Proof/Machine/Dispatch.lean ====
section
/-!
DEFINITION. Which meaning each operation has: one arm per constructor of `Instr`.
-/

namespace Sys2Proof.Machine

def exec (i : Instr) (s : State) : Host.Outcome State Fault Refusal :=
  match i with
  | .displayInteger value => Sys2Proof.Machine.execDisplayInteger value s
  | .displayFixedPoint mantissa exponent => Sys2Proof.Machine.execDisplayFixedPoint mantissa exponent s
  | .displayError => Sys2Proof.Machine.execDisplayError s
  | .refreshTick => Sys2Proof.Machine.execRefreshTick s
  | .bcdEncode v => Sys2Proof.Machine.execBcdEncode v s
  | .segMap c => Sys2Proof.Machine.execSegMap c s

end Sys2Proof.Machine
end

