-- ==== Sys2Proof/Machine/Cycle.lean ====
section
/-!
DEFINITION. One step of the block: the inputs it samples, and the operations it runs on them (R11, R47, R61, R140).
-/

namespace Sys2Proof.Machine

/-- The first outcome, and then `k` from its next state. -/
def andThen (o : Host.Outcome State Fault Refusal) (k : State → Host.Outcome State Fault Refusal) :
    Host.Outcome State Fault Refusal :=
  match o with
  | .next s => k s
  | .fault r => .fault r
  | .refused r => .refused r

/-- What a port word does: the operation it stands for runs; a word that stands for none is ignored, with no change of
state or output (R67). -/
def runWord (p : PortWord) (s : State) : Host.Outcome State Fault Refusal :=
  match decode p with
  | .instr i => exec i s
  | .ignored _ => .next s

/-- The four things a step can do with the command port and the timer (R47): nothing, one command (R61), one tick
(R140), or both, in the order the free value gives (log 3). -/
def runPorts (cmdValid : Bool) (cmd : CmdWord) (timerDue : Bool) (s : State) : Host.Outcome State Fault Refusal :=
  match cmdValid, timerDue with
  | false, false => .next s
  | true, false => runWord (.command cmd) s
  | false, true => runWord (.timer true) s
  | true, true =>
    if Config.commandFirst s.arbCount then andThen (runWord (.command cmd) s.nextArb) (runWord (.timer true))
    else andThen (runWord (.timer true) s.nextArb) (runWord (.command cmd))

/-- Nothing output yet. -/
def noOutputs : Outputs where
  timerRearm := false
  bcdOut := none
  patOut := none
  events := []

/-- A step with its inputs as an argument (R22): the outputs of the last step end, and the inputs are served. No part of it
reads or writes `State.inputs`: `blockStep` is the same step where there are none. -/
def stepOn (x : StepInput) (s : State) : Host.Outcome State Fault Refusal :=
  match x with
  | .ports cmdValid cmd timerDue => runPorts cmdValid cmd timerDue s.clearOutputs
  | .bin v => runWord (.bin v) s.clearOutputs
  | .sym c => runWord (.sym c) s.clearOutputs

/-- The step of R22: the inputs `x` are its argument, the elements of R20 are all that goes in beside the constants and all
that persists, and the outputs of the step come out. `n` names the use of the free order (log 3). -/
def blockStep (c : Config) (n : Nat) (x : StepInput) (b : Block) : Host.Outcome (Block × Outputs) Fault Refusal :=
  match stepOn x { toBlock := b, toOutputs := noOutputs, config := c, inputs := [], arbCount := n } with
  | .next t => .next (t.toBlock, t.toOutputs)
  | .fault r => .fault r
  | .refused r => .refused r

/-- Nothing presented: no command and no tick (R47). -/
def idleInput : StepInput := .ports false 0#32 false

/-- A step of the closed machine: the environment presents the head of `State.inputs`, or nothing when the list is empty
(log 1), and the block steps on it. -/
def cycle (s : State) : Host.Outcome State Fault Refusal :=
  match s.inputs with
  | [] => stepOn idleInput s
  | x :: rest => stepOn x (s.setInputs rest)

/-- The step input that presents a port word and nothing else. -/
def inputOf : PortWord → StepInput
  | .command w => .ports true w false
  | .timer due => .ports false 0#32 due
  | .bin v => .bin v
  | .sym c => .sym c

/-- The state whose next step is presented with an opcode-table word (log 2, log 10). -/
def presentTableWord (s : State) (nbits w : Nat) : State :=
  match tablePortWord nbits w with
  | some p => s.setInputs (inputOf p :: s.inputs)
  | none => s

end Sys2Proof.Machine
end

