-- ==== Sys2Proof/Machine/Readback.lean ====
section
/-!
DEFINITION. How a person reads the display: the decoding function of R96, which the source's testable properties (R119)
are stated with. It is no part of the hardware: no operation calls it.
-/

namespace Sys2Proof.Machine

/-- What one position reads as (R96). -/
inductive ReadGlyph where
  | digit (d : Fin 10)
  | minus
  | blank
  | errE
  | errR
  deriving DecidableEq, Repr

/-- `decode(p)` of R96: it looks at `q = p & 0x7F`, without the decimal point, and is undefined (`none`) for a pattern
that is none of the glyphs it names. R95 does not keep `SEG_MINUS`, `ERR_E` and `ERR_R` apart, so under an admissible table
their cases can overlap, and R96 gives no precedence: the model takes the minus first, then "E", then "r"
(DESIGN CHOICE, unsafe for what such a pattern reads as, log 16). -/
def readPattern (g : GlyphTable) (p : Pattern) : Option ReadGlyph :=
  let q := p &&& 0x7F#8
  match (List.finRange 10).find? (fun d => decide (q = segMap g d.val)) with
  | some d => some (.digit d)
  | none =>
    if q = g.minus then some .minus
    else if q = g.blank then some .blank
    else if q = errE g then some .errE
    else if q = errR g then some .errR
    else none

/-- The digit of a place that may be left blank: a blank counts as 0 (log 15). -/
def placeValue : ReadGlyph → Option Nat
  | .digit d => some d.val
  | .blank => some 0
  | .minus => none
  | .errE => none
  | .errR => none

/-- The number that three positions read as (position 0 first): a ones digit, a tens place, and a hundreds place or the
sign (R111, R112; DESIGN CHOICE, safe, log 15). -/
def readNumber : Option ReadGlyph → Option ReadGlyph → Option ReadGlyph → Option Int
  | some (.digit a), some b, some .minus => (placeValue b).map fun t => -((10 * t + a.val : Nat) : Int)
  | some (.digit a), some b, some c =>
    match placeValue b, placeValue c with
    | some t, some h => some ((100 * h + 10 * t + a.val : Nat) : Int)
    | _, _ => none
  | _, _, _ => none

/-- The number a whole frame reads as, decimal points left aside (log 15). -/
def readFrame (g : GlyphTable) (f : Frame) : Option Int :=
  readNumber (readPattern g f.p0) (readPattern g f.p1) (readPattern g f.p2)

end Sys2Proof.Machine
end

