-- ==== Sys2Proof/Safety.lean ====
section
/-!
DEFINITION. The terms claims are stated in: what a replacement glyph table must keep, what a safe display is at every
instant, the decimal forms of the framebuffers, and the effect of a sequence of inputs.
-/

namespace Sys2Proof.Machine

/-! ### Glyph tables -/

/-- The properties (a), (b) and (c) of R95, which "any replacement `GLYPH` parameter must keep". -/
abbrev GlyphsOk (g : GlyphTable) : Prop :=
  ((∀ d : Fin 10, pointLit (segMap g d.val) = false) ∧ pointLit g.minus = false) ∧
  (g.blank = 0x00#8 ∧ ∀ c : Fin 19, segMap g c.val ≠ 0x00#8) ∧
  (∀ d e : Fin 10, d ≠ e → segMap g d.val ≠ segMap g e.val) ∧
  (∀ d : Fin 10, segMap g d.val ≠ g.minus ∧ segMap g d.val ≠ errE g ∧ segMap g d.val ≠ errR g)

/-- What claims about the decimal point need beside R95 (DEDUCED, safe, log 7): DOT is the decimal-point segment alone (R10, R90), and
the error glyphs have no decimal point. -/
abbrev PointOk (g : GlyphTable) : Prop :=
  g.dot = 0x80#8 ∧ pointLit (errE g) = false ∧ pointLit (errR g) = false

/-! ### Numbers of the words -/

/-- `sext_N(v)` of R7: the two's complement reading of an N-bit field whose unsigned value is `v`. -/
def sext (bits v : Nat) : Int := if v < 2 ^ (bits - 1) then (v : Int) else (v : Int) - 2 ^ bits

/-- The reserved command words: the cases (a) to (d) of R67, on the word as a number. -/
abbrev reservedWord (w : Nat) : Prop :=
  (w / 2 ^ 28 = 0 ∨ 4 ≤ w / 2 ^ 28) ∨
  w / 2 ^ 24 % 16 ≠ 0 ∨
  (w / 2 ^ 28 = 1 ∧ w / 2 ^ 16 % 256 ≠ 0) ∨
  (w / 2 ^ 28 = 3 ∧ w % 2 ^ 24 ≠ 0)

/-! ### Framebuffers -/

/-- The digits of an integer in range, by decimal arithmetic: ones always, no leading zeros, minus in position 2
(R111, R112). -/
def shownInteger (g : GlyphTable) (x : Int) : Frame :=
  let m := x.natAbs
  ⟨segMap g (m % 10),
   if m < 10 then g.blank else segMap g (m / 10 % 10),
   if x < 0 then g.minus else if m < 100 then g.blank else segMap g (m / 100)⟩

/-- An integer in range with one decimal place: "12.3" (R113, R114, R117). -/
def shownTenths (g : GlyphTable) (x : Int) : Frame :=
  let m := x.natAbs
  ⟨segMap g (m % 10),
   segMap g (m / 10 % 10) ||| g.dot,
   if x < 0 then g.minus else if m < 100 then g.blank else segMap g (m / 100)⟩

/-- An integer in range with two decimal places: "1.23", "-.05" (R113, R114, R117). -/
def shownHundredths (g : GlyphTable) (x : Int) : Frame :=
  let m := x.natAbs
  ⟨segMap g (m % 10),
   segMap g (m / 10 % 10),
   (if x < 0 then g.minus else segMap g (m / 100)) ||| g.dot⟩

/-- The frame a command commits; no other operation commits one. -/
def commandFrame (g : GlyphTable) : Instr → Option Frame
  | .displayInteger v => some (formatInteger g v)
  | .displayFixedPoint m e => some (formatFixedPoint g m e)
  | .displayError => some (errorFrame g)
  | .refreshTick => none
  | .bcdEncode _ => none
  | .segMap _ => none

/-- The patterns the block writes (R25, R94, R114, R117): a digit, the minus, either with a decimal point, BLANK, and the
two error glyphs. -/
abbrev WrittenPattern (g : GlyphTable) (p : Pattern) : Prop :=
  (∃ d : Fin 10, p = segMap g d.val ∨ p = segMap g d.val ||| g.dot) ∨
  p = g.minus ∨ p = g.minus ||| g.dot ∨ p = g.blank ∨ p = errE g ∨ p = errR g

/-- Nothing but the framebuffer differs: every latch, output, event and parameter is as before. -/
abbrev OnlyFramebuffer (s t : State) : Prop := t = { s with fb := t.fb }

/-! ### The lines at every instant -/

/-- How many digit lines are on. -/
def popcount (v : DigitLines) : Nat := (v.getLsbD 0).toNat + (v.getLsbD 1).toNat + (v.getLsbD 2).toNat

/-- The lines (`SEG_OUT`, `DIG_EN`) after a sequence of output events, from given ones. -/
def linesAfter : Pattern × DigitLines → List OutEvent → Pattern × DigitLines
  | l, [] => l
  | (_, e), .segOut v :: rest => linesAfter (v, e) rest
  | (p, _), .digEn v :: rest => linesAfter (p, v) rest

/-- The lines right after reset (R32). -/
def resetLines : Pattern × DigitLines := (resetSegOut, resetDigEn)

/-- Break before make (R141, R185), from given digit lines on: the segment lines change only while every digit line is
off, and a digit line goes on, alone, only from all off. -/
def breakBeforeMake : DigitLines → List OutEvent → Bool
  | _, [] => true
  | e, .segOut _ :: rest => decide (e = 0#3) && breakBeforeMake e rest
  | e, .digEn v :: rest =>
    (decide (v = 0#3) || (decide (e = 0#3) && decide (popcount v = 1))) && breakBeforeMake v rest

/-- The three events that show position `i` of framebuffer `m` (R141). -/
def showEvents (m : Memory) (i : Position) : List OutEvent :=
  [.digEn 0b000#3, .segOut (m.read i), .digEn (onehot3 i)]

/-- What every step keeps: the framebuffer's list is canonical; the latches are what the events so far have driven them
to; every event was break-before-make; before the first event no line is on, and from then on exactly the line of `IDX`
is (R28, R146). -/
structure State.Inv (s : State) : Prop where
  canonical : s.fb.wf = true
  lines : linesAfter resetLines s.events = (s.segOut, s.digEn)
  breaks : breakBeforeMake resetDigEn s.events = true
  enabled : s.digEn = if s.events = [] then 0b000#3 else onehot3 s.idx

/-! ### Sequences of inputs -/

/-- Whether a step with this input ticks (R140). -/
def ticks : StepInput → Bool
  | .ports _ _ due => due
  | .bin _ => false
  | .sym _ => false

/-- Whether a step with this input meets a command and a tick, whose order is free (R47, log 3). -/
def meetsBoth : StepInput → Bool
  | .ports cmdValid _ due => cmdValid && due
  | .bin _ => false
  | .sym _ => false

/-- The closed machine `s` after its block has stepped on the input `x`: the block and the outputs are the step's, its events
come after those of the past, the constants stay, and the environment goes on with `rest` (R20 to R22). -/
def closeStep (s : State) (x : StepInput) (rest : List StepInput) :
    Host.Outcome (Block × Outputs) Fault Refusal → Host.Outcome State Fault Refusal
  | .next (b, o) => .next {
      toBlock := b
      toOutputs := { o with events := s.events ++ o.events }
      config := s.config
      inputs := rest
      arbCount := if meetsBoth x then s.arbCount + 1 else s.arbCount }
  | .fault r => .fault r
  | .refused r => .refused r

/-- The number of ticks that a sequence of inputs asks for. -/
def ticksDue (l : List StepInput) : Nat := (l.filter ticks).length

/-- An input the spec gives a meaning to: all but an input of `BCD_ENCODE` above 999 (R82). -/
def hasMeaning : StepInput → Bool
  | .ports _ _ _ => true
  | .bin v => decide (v.toNat ≤ 999)
  | .sym _ => true

/-- The framebuffer content after a step with this input: that of its command, where it has one that is not reserved
(R45, R61, R67). -/
def frameAfter (g : GlyphTable) (f : Frame) : StepInput → Frame
  | .ports true w _ =>
    match decode (.command w) with
    | .instr i => (commandFrame g i).getD f
    | .ignored _ => f
  | .ports false _ _ => f
  | .bin _ => f
  | .sym _ => f

end Sys2Proof.Machine
end

