-- ==== Sys2Proof/Certificates/Slice0/Obligations.lean ====
section
/-!
DEFINITION. The statements for the provers. Each docstring names the rule of spec/ it formalises. Where a statement rests on
a choice of the spec's or of this model's, the docstring says so.
-/

open Sys2Proof Sys2Proof.Machine

/-! ### Encoding (30_encoding.md) -/

/-- Decode and encode agree on every well-formed operation, every operand at every value its field admits
(30_encoding.md R62 to R66, R70, R71; the layout is decision D7). -/
def Obligations.DecodeOfEncodeIsTheOperation : Prop :=
  ∀ i : Instr, i.wf = true → decode (encode i) = .instr i

/-- Every word that decodes has one meaning: its operation is well-formed and encodes to that very word. No bit of a word
is read away. -/
def Obligations.EncodeOfDecodeIsTheWord : Prop :=
  ∀ (p : PortWord) (i : Instr), decode p = .instr i → i.wf = true ∧ encode i = p

/-- The decoder of R69 on every command word, with the fields of R62 and the operands of R64 and R65 computed from the
word as a number. -/
def Obligations.CommandDecoderFollowsPseudocode : Prop :=
  ∀ w : CmdWord,
    let op := w.toNat / 2 ^ 28
    let rsv := w.toNat / 2 ^ 24 % 16
    let exp := w.toNat / 2 ^ 16 % 256
    let val := w.toNat % 2 ^ 16
    decode (.command w) =
      if rsv ≠ 0 then .ignored .reservedBits
      else if op = 1 then
        if exp = 0 then .instr (.displayInteger (sext 16 val)) else .ignored .integerExponent
      else if op = 2 then .instr (.displayFixedPoint (sext 16 val) (sext 8 exp))
      else if op = 3 then
        if w.toNat % 2 ^ 24 = 0 then .instr .displayError else .ignored .errorOperand
      else .ignored .reservedOp

/-- R67, R47: a command word stands for no operation exactly when one of (a) to (d) holds. The step that accepts such a word
alone changes no state and no output (`TIMER_REARM` and the function ports show nothing, as in every step without a tick or
a function). The step that meets it with a tick is the tick's alone, whichever order the free value gives (log 3; its counter
advances), and shows the framebuffer's pattern at the new index. That reserved words are ignored is decision D9. -/
def Obligations.ReservedCommandWordsAreIgnored : Prop :=
  (∀ w : CmdWord, reservedWord w.toNat ↔ ∃ why, decode (.command w) = .ignored why) ∧
  (∀ (s : State) (w : CmdWord) (rest : List StepInput),
    s.inputs = .ports true w false :: rest → reservedWord w.toNat →
      step s = .next { s with inputs := rest, timerRearm := false, bcdOut := none, patOut := none }) ∧
  ∀ (s : State) (w : CmdWord) (rest : List StepInput),
    s.inputs = .ports true w true :: rest → reservedWord w.toNat →
      step s = exec .refreshTick ((s.setInputs rest).clearOutputs).nextArb ∧
      ∃ t, step s = .next t ∧ t.fb = s.fb ∧ t.idx = nextPosition s.idx ∧ t.segOut = s.fb.read t.idx ∧
        t.digEn = onehot3 t.idx ∧ t.timerRearm = true

/-- The worked encodings of R72, and one word of each other port (R66, R70), in both directions. -/
def Obligations.WorkedEncodingsDecode : Prop :=
  ∀ r ∈ [(Instr.displayInteger 0, PortWord.command 0x10000000#32),
      (.displayInteger (-7), .command 0x1000FFF9#32),
      (.displayInteger 999, .command 0x100003E7#32),
      (.displayInteger 1000, .command 0x100003E8#32),
      (.displayFixedPoint 25 (-1), .command 0x20FF0019#32),
      (.displayFixedPoint 5 (-2), .command 0x20FE0005#32),
      (.displayFixedPoint 7 2, .command 0x20020007#32),
      (.displayError, .command 0x30000000#32),
      (.refreshTick, .timer true),
      (.bcdEncode 305, .bin 0b0100110001#10),
      (.segMap 0x12, .sym 0b10010#5)],
    decode r.2 = .instr r.1 ∧ encode r.1 = r.2

/-! ### The pure functions (40_bcd_encoder.md, 41_segment_mapper.md) -/

/-- R80: `BCD_ENCODE` of a value within its contract shows the packed decimal digits at its port and writes no state. The
loop's result is stated in closed form, digit `i` at bit `4*i`; `v = 0` gives 0x000. -/
def Obligations.BcdEncodePacksDecimalDigits : Prop :=
  (∀ v : BitVec 10, decode (.bin v) = .instr (.bcdEncode v.toNat)) ∧
  ∀ (v : Nat) (s : State), v ≤ 999 →
    exec (.bcdEncode v) s =
      .next { s with bcdOut := some (BitVec.ofNat 12 (v / 100 * 256 + v / 10 % 10 * 16 + v % 10)) }

/-- R83 and the closed form of R81 (which the spec derives from R80): nibble `i` of any packed BCD is its bits
`[4*i+3 : 4*i]`, and nibble `i` of an encoded value is its decimal digit `i`, never above 9. -/
def Obligations.BcdNibblesAreDecimalDigits : Prop :=
  (∀ (b : Bcd) (i : Nat), i < 3 → digit b i = b.toNat / 16 ^ i % 16) ∧
  ∀ v i : Nat, v ≤ 999 → i < 3 → digit (bcdEncode v) i = v / 10 ^ i % 10 ∧ digit (bcdEncode v) i ≤ 9

/-- R82 (decision D19): above 999 `BCD_ENCODE` has no meaning and is refused, and the magnitude of a value that passes the
commands' range check is within the function's contract, so that what `render_int` encodes is never refused. -/
def Obligations.BcdEncodeAbove999IsRefused : Prop :=
  (∀ (v : Nat) (s : State), 999 < v → exec (.bcdEncode v) s = .refused .bcdAbove999) ∧
  ∀ x : Int, inIntRange x = true → inBcdContract x.natAbs = true

/-- R90: `SEG_MAP` shows the table entry of the symbol code, in the order of R91's codes, and BLANK for a code beyond 0x13.
It writes no state. -/
def Obligations.SegMapShowsTheTableEntry : Prop :=
  (∀ c : BitVec 5, decode (.sym c) = .instr (.segMap c.toNat)) ∧
  ∀ (c : Nat) (s : State),
    let g := s.config.glyph
    exec (.segMap c) s =
      .next { s with patOut := some (([g.hex0, g.hex1, g.hex2, g.hex3, g.hex4, g.hex5, g.hex6, g.hex7, g.hex8, g.hex9,
        g.hexA, g.hexB, g.hexC, g.hexD, g.hexE, g.hexF, g.dot, g.minus, g.dash, g.blank][c]?).getD g.blank) }

/-- The default table has the bit values of R92's table, which the spec marks as its own default from general knowledge
(D4, log 7), and it has the properties of R95 and of `PointOk`. -/
def Obligations.DefaultGlyphTableContent : Prop :=
  (List.range 32).map (segMap glyphDefault) =
    [0x77#8, 0x24#8, 0x5D#8, 0x6D#8, 0x2E#8, 0x6B#8, 0x7B#8, 0x25#8, 0x7F#8, 0x6F#8,
     0x3F#8, 0x7A#8, 0x53#8, 0x7C#8, 0x5B#8, 0x1B#8, 0x80#8, 0x08#8, 0x18#8, 0x00#8,
     0x00#8, 0x00#8, 0x00#8, 0x00#8, 0x00#8, 0x00#8, 0x00#8, 0x00#8, 0x00#8, 0x00#8, 0x00#8, 0x00#8] ∧
  GlyphsOk glyphDefault ∧ PointOk glyphDefault

/-! ### The Number Formatter (42_formatter.md) -/

/-- R110: which words are `display_integer`, with its operand; and for every value and every state it completes, changes
only the framebuffer, and leaves there the digits of the value, or the error display outside [-99, 999], whatever was there
before. -/
def Obligations.DisplayIntegerCommitsTheDigits : Prop :=
  (∀ w : CmdWord, w.toNat / 2 ^ 28 = 1 →
    if w.toNat / 2 ^ 16 % 2 ^ 12 = 0 then decode (.command w) = .instr (.displayInteger (sext 16 (w.toNat % 2 ^ 16)))
    else ∃ why, decode (.command w) = .ignored why) ∧
  ∀ (v : Int) (s : State), ∃ t, exec (.displayInteger v) s = .next t ∧ OnlyFramebuffer s t ∧
    t.fb.frame =
      if -99 ≤ v ∧ v ≤ 999 then shownInteger s.config.glyph v
      else ⟨errR s.config.glyph, errR s.config.glyph, errE s.config.glyph⟩

/-- R113: which words are `display_fixed_point`, with its operands; and for every mantissa, exponent and state whose glyph
table is admissible (R95) it completes, changes only the framebuffer, and leaves there the exactly scaled integer, or the
mantissa with its decimal point and the zeros forced up to it, or the error display. -/
def Obligations.DisplayFixedPointCommitsTheValue : Prop :=
  (∀ w : CmdWord, w.toNat / 2 ^ 28 = 2 →
    if w.toNat / 2 ^ 24 % 16 = 0 then
      decode (.command w) =
        .instr (.displayFixedPoint (sext 16 (w.toNat % 2 ^ 16)) (sext 8 (w.toNat / 2 ^ 16 % 256)))
    else ∃ why, decode (.command w) = .ignored why) ∧
  ∀ (m e : Int) (s : State), GlyphsOk s.config.glyph →
    ∃ t, exec (.displayFixedPoint m e) s = .next t ∧ OnlyFramebuffer s t ∧
      let g := s.config.glyph
      let err : Frame := ⟨errR g, errR g, errE g⟩
      t.fb.frame =
        if e < -2 ∨ 2 < e then err
        else if 0 ≤ e then
          if -99 ≤ m * 10 ^ e.toNat ∧ m * 10 ^ e.toNat ≤ 999 then shownInteger g (m * 10 ^ e.toNat) else err
        else if m < -99 ∨ 999 < m then err
        else if e = -1 then shownTenths g m
        else shownHundredths g m

/-- R118: 0x30000000 is `display_error`, the only word with OP = 3 that is not reserved; it completes in every state,
changes only the framebuffer, and leaves there [ERR_R, ERR_R, ERR_E], which under the default table is [0x18, 0x18, 0x5B]. -/
def Obligations.DisplayErrorCommitsTheErrorDisplay : Prop :=
  decode (.command 0x30000000#32) = .instr .displayError ∧
  (∀ w : CmdWord, w.toNat / 2 ^ 28 = 3 → w ≠ 0x30000000#32 → ∃ why, decode (.command w) = .ignored why) ∧
  (∀ s : State, ∃ t, exec .displayError s = .next t ∧ OnlyFramebuffer s t ∧
    t.fb.read 0 = errR s.config.glyph ∧ t.fb.read 1 = errR s.config.glyph ∧ t.fb.read 2 = errE s.config.glyph) ∧
  (errR glyphDefault = 0x18#8 ∧ errE glyphDefault = 0x5B#8)

/-- R161: in each of the four causes (a) to (d) of RANGE the framebuffer is committed as ERROR_FB and nothing else is
recorded, for every glyph table. -/
def Obligations.RangeErrorsCommitTheErrorDisplay : Prop :=
  ∀ s : State,
    let shows := fun i : Instr => ∃ t, exec i s = .next t ∧ OnlyFramebuffer s t ∧
      t.fb.frame = ⟨errR s.config.glyph, errR s.config.glyph, errE s.config.glyph⟩
    (∀ v : Int, v < -99 ∨ 999 < v → shows (.displayInteger v)) ∧
    (∀ m e : Int, e < -2 ∨ 2 < e → shows (.displayFixedPoint m e)) ∧
    (∀ m e : Int, e = 0 ∨ e = 1 ∨ e = 2 → m * 10 ^ e.toNat < -99 ∨ 999 < m * 10 ^ e.toNat →
      shows (.displayFixedPoint m e)) ∧
    (∀ m e : Int, e = -1 ∨ e = -2 → m < -99 ∨ 999 < m → shows (.displayFixedPoint m e))

/-- The converse that makes the error display an error signal (42_formatter.md, 60_exceptions.md section 1): under an
admissible glyph table `display_integer` and `display_fixed_point` show it exactly when they meet the class RANGE. -/
def Obligations.ErrorDisplayMeansRangeError : Prop :=
  ∀ (i : Instr) (s t : State), GlyphsOk s.config.glyph → i ≠ .displayError → (commandFrame s.config.glyph i).isSome →
    exec i s = .next t →
      (t.fb.frame = ⟨errR s.config.glyph, errR s.config.glyph, errE s.config.glyph⟩ ↔ errorClassOf i = some .range)

/-- R114: `place_point(F, k)` position by position, for any frame and any table: BLANK positions from 1 to `k` become "0",
position `k` gets the point, the others stay; and position 0 is never BLANK after `render_int`. -/
def Obligations.PlacePointForcesZerosAndSetsThePoint : Prop :=
  (∀ (g : GlyphTable) (f : Frame) (k j : Position), k ≠ 0 →
    (placePoint g f k).get j =
      if j = 0 ∨ k < j then f.get j
      else (if f.get j = g.blank then segMap g 0 else f.get j) ||| (if j = k then g.dot else 0x00#8)) ∧
  ∀ (g : GlyphTable) (x : Int), GlyphsOk g → -99 ≤ x → x ≤ 999 → (renderInt g x).get 0 ≠ g.blank

/-- R115 (decision D10): for exponents 0, 1 and 2 the command is `display_integer` of the exact product, which for a mantissa
that fits its field is at most 3276800 in magnitude and never wraps back into the range. -/
def Obligations.NonNegativeExponentsScaleExactly : Prop :=
  ∀ (m e : Int) (s : State), fitsVal m → e = 0 ∨ e = 1 ∨ e = 2 →
    exec (.displayFixedPoint m e) s = exec (.displayInteger (m * 10 ^ e.toNat)) s ∧
    (m * 10 ^ e.toNat).natAbs ≤ 3276800

/-- R119(a), over the decoding function of R96: under an admissible table a person reads off the display exactly the value
that `display_integer` was given, with blanks for leading zeros. The number that a frame reads as (`readFrame`, `readNumber`)
is the model's own reading (DESIGN CHOICE, log 15), and where a table has the minus glyph for an error glyph too, that it
reads as the minus is the model's choice (log 16). -/
def Obligations.IntegerReadsBack : Prop :=
  ∀ (v : Int) (s t : State), GlyphsOk s.config.glyph → -99 ≤ v → v ≤ 999 → exec (.displayInteger v) s = .next t →
    let g := s.config.glyph
    readFrame g t.fb.frame = some v ∧
    (∃ d, readPattern g (t.fb.read 0) = some (.digit d)) ∧
    (readPattern g (t.fb.read 1) = some .blank ↔ v.natAbs < 10) ∧
    (readPattern g (t.fb.read 2) = some .blank ↔ 0 ≤ v ∧ v < 100) ∧
    (readPattern g (t.fb.read 2) = some .minus ↔ v < 0)

/-- 42_formatter.md sections 3 and 5: what `display_fixed_point` shows reads as mantissa * 10^exponent. For exponents 0 to 2
the exact product reads back with no point lit; for -1 and -2 the mantissa reads back and exactly the point of position
`-exponent` is lit. Holds for admissible tables whose DOT is the decimal-point segment (log 7). The number that a frame reads
as (`readFrame`) is the model's own reading (DESIGN CHOICE, log 15), with the model's precedence among the glyphs (log 16). -/
def Obligations.FixedPointReadsBack : Prop :=
  ∀ (m e : Int) (s t : State), GlyphsOk s.config.glyph → PointOk s.config.glyph →
    exec (.displayFixedPoint m e) s = .next t →
    let g := s.config.glyph
    (0 ≤ e → e ≤ 2 → -99 ≤ m * 10 ^ e.toNat → m * 10 ^ e.toNat ≤ 999 →
      readFrame g t.fb.frame = some (m * 10 ^ e.toNat) ∧ ∀ j, pointLit (t.fb.read j) = false) ∧
    (e = -1 ∨ e = -2 → -99 ≤ m → m ≤ 999 →
      readFrame g t.fb.frame = some m ∧ ∀ j, pointLit (t.fb.read j) = true ↔ (j.val : Int) = -e)

/-- R119(c): `display_fixed_point` never leaves a decimal point on a BLANK pattern, at most one position has the point lit,
and one has it only for exponents -1 and -2 with a mantissa in range (log 7 for what the table must keep). -/
def Obligations.PointNeverFloats : Prop :=
  ∀ (m e : Int) (s t : State), GlyphsOk s.config.glyph → PointOk s.config.glyph →
    exec (.displayFixedPoint m e) s = .next t →
    (∀ j, t.fb.read j ≠ s.config.glyph.dot) ∧
    (∀ j k, pointLit (t.fb.read j) = true → pointLit (t.fb.read k) = true → j = k) ∧
    ((∃ j, pointLit (t.fb.read j) = true) ↔ (e = -1 ∨ e = -2) ∧ -99 ≤ m ∧ m ≤ 999)

/-- R119(e), R48: after an accepted command the framebuffer depends on that command alone (and the constant table), not on
what it held, where the index stands or which order a tick in the same step took. -/
def Obligations.FramebufferDependsOnTheCommandAlone : Prop :=
  ∀ (s s' t t' : State) (w : CmdWord) (due due' : Bool) (rest rest' : List StepInput) (i : Instr),
    s.config.glyph = s'.config.glyph → decode (.command w) = .instr i →
    s.inputs = .ports true w due :: rest → s'.inputs = .ports true w due' :: rest' →
    step s = .next t → step s' = .next t' → t.fb = t'.fb

/-- R46: reading has no side effect and writing is idempotent: a command repeated leaves the state the first one left. -/
def Obligations.RepeatedCommandChangesNothing : Prop :=
  ∀ (i : Instr) (s t : State), (commandFrame s.config.glyph i).isSome → exec i s = .next t → exec i t = .next t

/-! ### The framebuffer as a store (20_memory.md) -/

/-- R40, R44: a write of a position reads back there and leaves the other positions alone, and keeps the list of cells
canonical, for every list. -/
def Obligations.FramebufferReadAfterWrite : Prop :=
  ∀ (m : Memory) (i j : Position) (p : Pattern),
    (m.write i p).read j = (if j = i then p else m.read j) ∧ (m.write i p).wf = true

/-- The canonical form is one (the model's own representation, log 8): framebuffers that read alike at all three positions
are equal data. -/
def Obligations.EqualReadsAreEqualFramebuffers : Prop :=
  ∀ m m' : Memory, m.wf = true → m'.wf = true → (∀ i, m.read i = m'.read i) → m = m'

/-! ### The Multiplex Scheduler (43_mux_scheduler.md) -/

/-- R141: `refresh_tick` completes in every state: the index advances mod 3 before the output is driven, the three phases
are emitted in order, the latches hold the new position's pattern and its one line, the timer is rearmed, and nothing else
changes. -/
def Obligations.RefreshTickShowsTheNextPosition : Prop :=
  decode (.timer true) = .instr .refreshTick ∧
  ∀ s : State, ∃ t, exec .refreshTick s = .next t ∧
    t.idx.val = (s.idx.val + 1) % 3 ∧
    t.segOut = s.fb.read t.idx ∧
    (∀ j, t.digEn.getLsbD j = decide (j = t.idx.val)) ∧
    t.timerRearm = true ∧
    t.events = s.events ++ [.digEn 0b000#3, .segOut (s.fb.read t.idx), .digEn t.digEn] ∧
    t = { s with idx := t.idx, segOut := t.segOut, digEn := t.digEn, timerRearm := true, events := t.events }

/-- R145: a tick always completes in the step that takes it, reads the framebuffer at one position only (the new index's),
and writes `IDX`, `SEG_OUT`, `DIG_EN` and `TIMER_REARM` (and emits its events): a framebuffer that agrees there gives the
same outcome, and nothing else of the state changes. -/
def Obligations.TickReadsOnePositionAndCompletes : Prop :=
  ∀ (s : State) (m : Memory), m.read (nextPosition s.idx) = s.fb.read (nextPosition s.idx) →
    ∃ t, exec .refreshTick s = .next t ∧ exec .refreshTick { s with fb := m } = .next { t with fb := m } ∧
      t = { s with idx := t.idx, segOut := t.segOut, digEn := t.digEn, timerRearm := t.timerRearm, events := t.events }

/-- R185: within a tick every digit line is off before the segment lines change, and a digit line goes on only after they
have changed and while every line is off, wherever the lines stood before the tick. -/
def Obligations.TickBreaksBeforeItMakes : Prop :=
  ∀ s t : State, exec .refreshTick s = .next t →
    ∃ emitted, t.events = s.events ++ emitted ∧
      (∀ (before : List OutEvent) (v : Pattern) (after : List OutEvent), emitted = before ++ .segOut v :: after →
        (linesAfter (s.segOut, s.digEn) before).2 = 0b000#3) ∧
      (∀ (before : List OutEvent) (e : DigitLines) (after : List OutEvent), emitted = before ++ .digEn e :: after →
        e ≠ 0b000#3 → linesAfter (s.segOut, s.digEn) before = (t.segOut, 0b000#3))

/-- 43_mux_scheduler.md section 4, 70_reset_and_hazards.md R184: three ticks from any state show all three positions of the
framebuffer, each once, and bring the index back to where it was; the framebuffer is as it was. -/
def Obligations.ThreeTicksShowEveryPosition : Prop :=
  ∀ (s : State) (w0 w1 w2 : CmdWord) (rest : List StepInput),
    s.inputs = .ports false w0 true :: .ports false w1 true :: .ports false w2 true :: rest →
    ∃ t, Sys2Proof.core.run 3 s = .next t ∧
      t.idx = s.idx ∧ t.fb = s.fb ∧ t.inputs = rest ∧
      t.events = s.events ++ showEvents s.fb (s.idx + 1) ++ showEvents s.fb (s.idx + 2) ++ showEvents s.fb s.idx

/-- 70_reset_and_hazards.md R182: with the spec's reset values (D13 to D15) the first ticks show positions 1, 2 and 0, all
BLANK. -/
def Obligations.FirstTicksAfterReset : Prop :=
  ∃ t, Sys2Proof.core.run 3 (State.reset.setInputs [.ports false 0 true, .ports false 0 true, .ports false 0 true]) =
      .next t ∧
    t.events = [.digEn 0b000#3, .segOut 0x00#8, .digEn 0b010#3,
      .digEn 0b000#3, .segOut 0x00#8, .digEn 0b100#3,
      .digEn 0b000#3, .segOut 0x00#8, .digEn 0b001#3]

/-- 43_mux_scheduler.md R140, R143, R146: over any sequence of inputs that have a meaning there is one refresh for each
step with `TIMER_DUE`, no more and no less: the index advances once and three events are emitted for each, and a line is on
after the first. -/
def Obligations.OneRefreshForEachTickDue : Prop :=
  ∀ s : State, (∀ x ∈ s.inputs, hasMeaning x = true) →
    ∃ t, Sys2Proof.core.run s.inputs.length s = .next t ∧ t.inputs = [] ∧
      t.idx.val = (s.idx.val + ticksDue s.inputs) % 3 ∧
      t.events.length = s.events.length + 3 * ticksDue s.inputs ∧
      (ticksDue s.inputs = 0 → t.segOut = s.segOut ∧ t.digEn = s.digEn) ∧
      (0 < ticksDue s.inputs → t.digEn = onehot3 t.idx)

/-- 20_memory.md R48, R49: over any sequence of inputs that have a meaning the framebuffer holds at the end what the last
accepted command committed, or what it held at the start. Ticks and the order they take do not matter. -/
def Obligations.FramebufferHoldsTheLastCommand : Prop :=
  ∀ s : State, (∀ x ∈ s.inputs, hasMeaning x = true) →
    ∃ t, Sys2Proof.core.run s.inputs.length s = .next t ∧
      t.fb.frame = s.inputs.foldl (frameAfter s.config.glyph) s.fb.frame ∧ t.config = s.config

/-- 43_mux_scheduler.md R140, 10_state.md R27 (decisions D15, D17): a step that samples no tick holds the index, the latches
and the event sequence and drives `TIMER_REARM` to 0; a step that samples one drives it to 1. -/
def Obligations.LinesHoldBetweenTicks : Prop :=
  ∀ (s t : State) (x : StepInput) (rest : List StepInput), s.inputs = x :: rest → step s = .next t →
    t.timerRearm = ticks x ∧ t.inputs = rest ∧
    (ticks x = false → t.idx = s.idx ∧ t.segOut = s.segOut ∧ t.digEn = s.digEn ∧ t.events = s.events)

/-! ### The step (00_scope.md section 6, 20_memory.md section 4) -/

/-- A step runs the operation that its input decodes to: a command accepted alone (R61), a tick alone (R140), or a function
input is `exec` of it, on the state whose input has been taken (log 1) and whose outputs of the last step have ended (log 4).
That a function input is served in a step of its own is the model's choice (DESIGN CHOICE, log 5). -/
def Obligations.StepRunsTheDecodedOperation : Prop :=
  ∀ (s : State) (rest : List StepInput) (i : Instr),
    let s0 := (s.setInputs rest).clearOutputs
    (∀ w, s.inputs = .ports true w false :: rest → decode (.command w) = .instr i → step s = exec i s0) ∧
    (∀ w, s.inputs = .ports false w true :: rest → step s = exec .refreshTick s0) ∧
    (∀ v, s.inputs = .bin v :: rest → step s = exec (.bcdEncode v.toNat) s0) ∧
    (∀ c, s.inputs = .sym c :: rest → step s = exec (.segMap c.toNat) s0)

/-- A step with nothing presented changes nothing, and with `CMD_VALID` = 0 "the word is ignored" (R61, R47). That an empty
input list presents nothing is the model's choice (DESIGN CHOICE, log 1), and so is the record of the last step's outputs,
which the step ends (DESIGN CHOICE, log 4). -/
def Obligations.StepWithoutInputsChangesNothing : Prop :=
  (∀ s : State, s.inputs = [] → step s = .next s.clearOutputs) ∧
  ∀ (s : State) (w : CmdWord) (rest : List StepInput), s.inputs = .ports false w false :: rest →
    step s = .next (s.setInputs rest).clearOutputs

/-- An opcode-table word presented to the next step is decoded and run by it (the model's own interface, log 2 and
log 10), and what was to come comes after it. -/
def Obligations.PresentedTableWordRunsNext : Prop :=
  ∀ (s : State) (nbits w : Nat) (i : Instr), decodeTableWord nbits w = some i →
    step (s.withFetchWord nbits w) = exec i s.clearOutputs

/-- R47 (decision D16): a command and a tick in one step run one after the other, the command first exactly where the free
value `Config.commandFirst` says so. Nothing is known of that value, so both orders are admitted. -/
def Obligations.CommandAndTickTakeOneOfTwoOrders : Prop :=
  ∀ (s : State) (w : CmdWord) (rest : List StepInput) (i : Instr),
    s.inputs = .ports true w true :: rest → decode (.command w) = .instr i →
    let s0 := ((s.setInputs rest).clearOutputs).nextArb
    ∃ mid t, step s = .next t ∧
      if Config.commandFirst s.arbCount then exec i s0 = .next mid ∧ exec .refreshTick mid = .next t
      else exec .refreshTick s0 = .next mid ∧ exec i mid = .next t

/-- R45, R47, R165: whichever order is taken, both take effect in the step, and the tick shows a pattern of the new
framebuffer or of the old one, whole. Only which of the two is open. -/
def Obligations.SameStepCommandAndTickBothTakeEffect : Prop :=
  ∀ (s : State) (w : CmdWord) (rest : List StepInput) (i : Instr) (f : Frame),
    s.inputs = .ports true w true :: rest → decode (.command w) = .instr i → commandFrame s.config.glyph i = some f →
    ∃ t, step s = .next t ∧ t.fb.frame = f ∧ t.idx = nextPosition s.idx ∧ t.digEn = onehot3 t.idx ∧
      t.timerRearm = true ∧ t.inputs = rest ∧
      (t.segOut = f.get t.idx ∨ t.segOut = s.fb.read t.idx) ∧
      t.events = s.events ++ [.digEn 0b000#3, .segOut t.segOut, .digEn t.digEn]

/-- 60_exceptions.md sections 1 and 2 (R160, R163; D19): no step faults, and the only step without a next state is one whose
function input `BIN` is above 999. -/
def Obligations.OnlyBcdAbove999HasNoNextState : Prop :=
  ∀ s : State, (∃ t, step s = .next t) ∨
    ∃ v rest, s.inputs = .bin v :: rest ∧ 999 < v.toNat ∧ step s = .refused .bcdAbove999

/-! ### Frames and invariants -/

/-- 10_state.md section 2 (R23), 20_memory.md section 3: every operation completes on every operand within its contract, and
changes only what it may: a command the framebuffer, a tick the index, the latches, `TIMER_REARM` and the events, a
function its own output port. -/
def Obligations.OperationsChangeOnlyTheirOwn : Prop :=
  ∀ (i : Instr) (s : State), (∀ v, i = .bcdEncode v → v ≤ 999) →
    ∃ t, exec i s = .next t ∧
      match i with
      | .displayInteger _ => OnlyFramebuffer s t
      | .displayFixedPoint _ _ => OnlyFramebuffer s t
      | .displayError => OnlyFramebuffer s t
      | .refreshTick => (∀ j, t.fb.read j = s.fb.read j) ∧
          t = { s with idx := t.idx, segOut := t.segOut, digEn := t.digEn, timerRearm := t.timerRearm, events := t.events }
      | .bcdEncode _ => (∀ j, t.fb.read j = s.fb.read j) ∧ t = { s with bcdOut := t.bcdOut }
      | .segMap _ => (∀ j, t.fb.read j = s.fb.read j) ∧ t = { s with patOut := t.patOut }

/-- R21, R29: no step changes a parameter, the glyph table among them. -/
def Obligations.ParametersNeverChange : Prop :=
  ∀ s t : State, step s = .next t → t.config = s.config

/-- Every step keeps the display invariant: the framebuffer's list is canonical, the latches are what the events have driven
them to, every event was break-before-make, and once a tick has happened exactly the line of `IDX` is on (10_state.md R28,
43_mux_scheduler.md R142, R146, 70_reset_and_hazards.md R185). -/
def Obligations.EveryStepKeepsTheDisplayInvariant : Prop :=
  ∀ s t : State, s.Inv → step s = .next t → t.Inv

/-- The block right after reset meets the display invariant, for every choice of parameters. -/
def Obligations.ResetMeetsTheDisplayInvariant : Prop :=
  ∀ c : Config, (State.resetOf c).Inv

/-- 10_state.md section 5 (R28): at every instant, also inside a tick, at most one digit line is on, and the segment lines
change only while none is. It holds in every state that meets the display invariant, of the lines after every part of the
event sequence. -/
def Obligations.AtMostOneDigitEnabledAtEveryInstant : Prop :=
  ∀ (s : State) (before after : List OutEvent), s.Inv → s.events = before ++ after →
    popcount (linesAfter resetLines before).2 ≤ 1 ∧ popcount s.digEn ≤ 1 ∧
    ∀ (p : Pattern) (rest : List OutEvent), after = .segOut p :: rest → (linesAfter resetLines before).2 = 0b000#3

/-- 10_state.md R25 (which the spec derives from R24 and R92), with R117: whatever the glyph table, a step leaves in every
position a pattern the block writes, if every position held one. -/
def Obligations.EveryStepKeepsWrittenPatterns : Prop :=
  ∀ s t : State, (∀ j, WrittenPattern s.config.glyph (s.fb.read j)) → step s = .next t →
    ∀ j, WrittenPattern t.config.glyph (t.fb.read j)

/-- R181: what reset leaves. The values are the spec's (its decisions D13 to D15 and its default table). -/
def Obligations.ResetLeavesTheSpecifiedValues : Prop :=
  (∀ j, State.reset.fb.read j = 0x00#8) ∧ State.reset.idx = 0 ∧ State.reset.segOut = 0x00#8 ∧
  State.reset.digEn = 0b000#3 ∧ State.reset.timerRearm = false ∧ State.reset.config.glyph = glyphDefault

/-- R180: a restart puts every element of R181 at its reset value and leaves the parameters alone, in every state. -/
def Obligations.RestartResetsEveryElement : Prop :=
  ∀ s : State, (∀ j, s.restart.fb.read j = 0x00#8) ∧ s.restart.idx = s.config.muxResetIdx ∧
    s.restart.segOut = 0x00#8 ∧ s.restart.digEn = 0b000#3 ∧ s.restart.timerRearm = false ∧ s.restart.config = s.config

/-- The source's five concrete scenarios S1 to S5 (95_test_vectors.md section 1), read symbolically for every admissible
glyph table. -/
def Obligations.SourceScenariosHold : Prop :=
  ∀ s : State, GlyphsOk s.config.glyph →
    let g := s.config.glyph
    let shows := fun (i : Instr) (f : Frame) => ∃ t, exec i s = .next t ∧ t.fb.frame = f
    shows (.displayInteger 0) ⟨segMap g 0, g.blank, g.blank⟩ ∧
    shows (.displayInteger (-7)) ⟨segMap g 7, g.blank, g.minus⟩ ∧
    shows (.displayInteger 1000) ⟨errR g, errR g, errE g⟩ ∧
    shows (.displayFixedPoint 25 (-1)) ⟨segMap g 5, segMap g 2 ||| g.dot, g.blank⟩ ∧
    shows (.displayFixedPoint 5 (-2)) ⟨segMap g 5, segMap g 0, segMap g 0 ||| g.dot⟩

/-- 10_state.md R20, R22: the step of the closed machine is the block's step on the one input it is presented with. The
block's next state and the outputs of the step depend on the elements of R20, the constants, that input and the free order
alone: on no input to come, which the block has no place for, and on no output of the past. The environment (`inputs`, an empty
list presenting nothing, and the free order's counter) is the model's own (DESIGN CHOICE, logs 1, 3 and 4). -/
def Obligations.StepIsTheBlocksStepOnItsInput : Prop :=
  ∀ (s : State) (x : StepInput) (rest : List StepInput),
    s.inputs = x :: rest ∨ (s.inputs = [] ∧ x = idleInput ∧ rest = []) →
      step s = closeStep s x rest (blockStep s.config s.arbCount x s.toBlock)
end

