-- ==== Sys2Proof/Laws/Decode.lean ====
section
/-!
SUPPORT. The fields of a command word, read from a packed word and as numbers.
-/

namespace Sys2Proof

/-! ### The fields as numbers -/

theorem opField_toNat (w : CmdWord) : (opField w).toNat = w.toNat / 2 ^ 28 := by
  have := w.isLt
  simp only [opField, BitVec.extractLsb'_toNat, Nat.shiftRight_eq_div_pow]
  omega

theorem rsvField_toNat (w : CmdWord) : (rsvField w).toNat = w.toNat / 2 ^ 24 % 16 := by
  simp only [rsvField, BitVec.extractLsb'_toNat, Nat.shiftRight_eq_div_pow]

theorem expField_toNat (w : CmdWord) : (expField w).toNat = w.toNat / 2 ^ 16 % 256 := by
  simp only [expField, BitVec.extractLsb'_toNat, Nat.shiftRight_eq_div_pow]

theorem valField_toNat (w : CmdWord) : (valField w).toNat = w.toNat % 2 ^ 16 := by
  simp only [valField, BitVec.extractLsb'_toNat, Nat.shiftRight_eq_div_pow, Nat.pow_zero, Nat.div_one]

/-- A packed word as a number. -/
theorem packCommand_toNat (op : BitVec 4) (exp : BitVec 8) (val : BitVec 16) :
    (packCommand op exp val).toNat = op.toNat * 2 ^ 28 + exp.toNat * 2 ^ 16 + val.toNat := by
  have h1 := exp.isLt
  have h2 := val.isLt
  simp only [packCommand, BitVec.toNat_append, BitVec.toNat_ofNat]
  rw [← Nat.shiftLeft_add_eq_or_of_lt (by omega), ← Nat.shiftLeft_add_eq_or_of_lt (by omega),
    ← Nat.shiftLeft_add_eq_or_of_lt (by omega)]
  simp only [Nat.shiftLeft_eq]
  omega

/-! ### The fields of a packed word -/

@[simp] theorem opField_packCommand (op : BitVec 4) (exp : BitVec 8) (val : BitVec 16) :
    opField (packCommand op exp val) = op := by
  have := op.isLt; have := exp.isLt; have := val.isLt
  apply BitVec.eq_of_toNat_eq
  rw [opField_toNat, packCommand_toNat]; omega

@[simp] theorem rsvField_packCommand (op : BitVec 4) (exp : BitVec 8) (val : BitVec 16) :
    rsvField (packCommand op exp val) = 0#4 := by
  have := op.isLt; have := exp.isLt; have := val.isLt
  apply BitVec.eq_of_toNat_eq
  rw [rsvField_toNat, packCommand_toNat, BitVec.toNat_ofNat]; omega

@[simp] theorem expField_packCommand (op : BitVec 4) (exp : BitVec 8) (val : BitVec 16) :
    expField (packCommand op exp val) = exp := by
  have := op.isLt; have := exp.isLt; have := val.isLt
  apply BitVec.eq_of_toNat_eq
  rw [expField_toNat, packCommand_toNat]; omega

@[simp] theorem valField_packCommand (op : BitVec 4) (exp : BitVec 8) (val : BitVec 16) :
    valField (packCommand op exp val) = val := by
  have := op.isLt; have := exp.isLt; have := val.isLt
  apply BitVec.eq_of_toNat_eq
  rw [valField_toNat, packCommand_toNat]; omega

/-- A word with `RSV` = 0 is the pack of its fields. -/
theorem packCommand_fields (w : CmdWord) (h : rsvField w = 0#4) :
    packCommand (opField w) (expField w) (valField w) = w := by
  have := w.isLt
  have h' : w.toNat / 2 ^ 24 % 16 = 0 := by rw [← rsvField_toNat, h]; rfl
  apply BitVec.eq_of_toNat_eq
  rw [packCommand_toNat, opField_toNat, expField_toNat, valField_toNat]; omega

/-! ### Operands -/

/-- A value that fits its field survives it (R64). -/
theorem toInt_ofInt_val {v : Int} (h : fitsVal v) : (BitVec.ofInt 16 v).toInt = v := by
  rw [BitVec.toInt_ofInt]
  exact Int.bmod_eq_of_le (by have := h.1; omega) (by have := h.2; omega)

/-- An exponent that fits its field survives it (R65). -/
theorem toInt_ofInt_exp {e : Int} (h : fitsExp e) : (BitVec.ofInt 8 e).toInt = e := by
  rw [BitVec.toInt_ofInt]
  exact Int.bmod_eq_of_le (by have := h.1; omega) (by have := h.2; omega)

/-- The value operand fits its field. -/
theorem fitsVal_valOperand (w : CmdWord) : fitsVal (valOperand w) := by
  have h1 := BitVec.toInt_lt (x := valField w)
  have h2 := BitVec.le_toInt (x := valField w)
  simp only [valOperand, fitsVal]
  omega

/-- The exponent operand fits its field. -/
theorem fitsExp_expOperand (w : CmdWord) : fitsExp (expOperand w) := by
  have h1 := BitVec.toInt_lt (x := expField w)
  have h2 := BitVec.le_toInt (x := expField w)
  simp only [expOperand, fitsExp]
  omega

end Sys2Proof
end

