-- ==== Sys2Proof/Laws/State.lean ====
section
/-!
SUPPORT. One lemma per field of State and per update of it, so that no later proof unfolds a record update.
The framebuffer after a commit is Laws/Ops.lean's `commit_fb`.
-/

namespace Sys2Proof.Machine

variable (s : State)

/-! ### State.commit -/

@[simp] theorem State.commit_idx (f : Frame) : (s.commit f).idx = s.idx := rfl
@[simp] theorem State.commit_segOut (f : Frame) : (s.commit f).segOut = s.segOut := rfl
@[simp] theorem State.commit_digEn (f : Frame) : (s.commit f).digEn = s.digEn := rfl
@[simp] theorem State.commit_config (f : Frame) : (s.commit f).config = s.config := rfl
@[simp] theorem State.commit_timerRearm (f : Frame) : (s.commit f).timerRearm = s.timerRearm := rfl
@[simp] theorem State.commit_bcdOut (f : Frame) : (s.commit f).bcdOut = s.bcdOut := rfl
@[simp] theorem State.commit_patOut (f : Frame) : (s.commit f).patOut = s.patOut := rfl
@[simp] theorem State.commit_events (f : Frame) : (s.commit f).events = s.events := rfl
@[simp] theorem State.commit_inputs (f : Frame) : (s.commit f).inputs = s.inputs := rfl
@[simp] theorem State.commit_arbCount (f : Frame) : (s.commit f).arbCount = s.arbCount := rfl

/-! ### State.setIdx -/

@[simp] theorem State.setIdx_fb (i : Position) : (s.setIdx i).fb = s.fb := rfl
@[simp] theorem State.setIdx_idx (i : Position) : (s.setIdx i).idx = i := rfl
@[simp] theorem State.setIdx_segOut (i : Position) : (s.setIdx i).segOut = s.segOut := rfl
@[simp] theorem State.setIdx_digEn (i : Position) : (s.setIdx i).digEn = s.digEn := rfl
@[simp] theorem State.setIdx_config (i : Position) : (s.setIdx i).config = s.config := rfl
@[simp] theorem State.setIdx_timerRearm (i : Position) : (s.setIdx i).timerRearm = s.timerRearm := rfl
@[simp] theorem State.setIdx_bcdOut (i : Position) : (s.setIdx i).bcdOut = s.bcdOut := rfl
@[simp] theorem State.setIdx_patOut (i : Position) : (s.setIdx i).patOut = s.patOut := rfl
@[simp] theorem State.setIdx_events (i : Position) : (s.setIdx i).events = s.events := rfl
@[simp] theorem State.setIdx_inputs (i : Position) : (s.setIdx i).inputs = s.inputs := rfl
@[simp] theorem State.setIdx_arbCount (i : Position) : (s.setIdx i).arbCount = s.arbCount := rfl

/-! ### State.emitDigEn -/

@[simp] theorem State.emitDigEn_fb (v : DigitLines) : (s.emitDigEn v).fb = s.fb := rfl
@[simp] theorem State.emitDigEn_idx (v : DigitLines) : (s.emitDigEn v).idx = s.idx := rfl
@[simp] theorem State.emitDigEn_segOut (v : DigitLines) : (s.emitDigEn v).segOut = s.segOut := rfl
@[simp] theorem State.emitDigEn_digEn (v : DigitLines) : (s.emitDigEn v).digEn = v := rfl
@[simp] theorem State.emitDigEn_config (v : DigitLines) : (s.emitDigEn v).config = s.config := rfl
@[simp] theorem State.emitDigEn_timerRearm (v : DigitLines) : (s.emitDigEn v).timerRearm = s.timerRearm := rfl
@[simp] theorem State.emitDigEn_bcdOut (v : DigitLines) : (s.emitDigEn v).bcdOut = s.bcdOut := rfl
@[simp] theorem State.emitDigEn_patOut (v : DigitLines) : (s.emitDigEn v).patOut = s.patOut := rfl
@[simp] theorem State.emitDigEn_events (v : DigitLines) : (s.emitDigEn v).events = s.events ++ [.digEn v] := rfl
@[simp] theorem State.emitDigEn_inputs (v : DigitLines) : (s.emitDigEn v).inputs = s.inputs := rfl
@[simp] theorem State.emitDigEn_arbCount (v : DigitLines) : (s.emitDigEn v).arbCount = s.arbCount := rfl

/-! ### State.emitSegOut -/

@[simp] theorem State.emitSegOut_fb (v : Pattern) : (s.emitSegOut v).fb = s.fb := rfl
@[simp] theorem State.emitSegOut_idx (v : Pattern) : (s.emitSegOut v).idx = s.idx := rfl
@[simp] theorem State.emitSegOut_segOut (v : Pattern) : (s.emitSegOut v).segOut = v := rfl
@[simp] theorem State.emitSegOut_digEn (v : Pattern) : (s.emitSegOut v).digEn = s.digEn := rfl
@[simp] theorem State.emitSegOut_config (v : Pattern) : (s.emitSegOut v).config = s.config := rfl
@[simp] theorem State.emitSegOut_timerRearm (v : Pattern) : (s.emitSegOut v).timerRearm = s.timerRearm := rfl
@[simp] theorem State.emitSegOut_bcdOut (v : Pattern) : (s.emitSegOut v).bcdOut = s.bcdOut := rfl
@[simp] theorem State.emitSegOut_patOut (v : Pattern) : (s.emitSegOut v).patOut = s.patOut := rfl
@[simp] theorem State.emitSegOut_events (v : Pattern) : (s.emitSegOut v).events = s.events ++ [.segOut v] := rfl
@[simp] theorem State.emitSegOut_inputs (v : Pattern) : (s.emitSegOut v).inputs = s.inputs := rfl
@[simp] theorem State.emitSegOut_arbCount (v : Pattern) : (s.emitSegOut v).arbCount = s.arbCount := rfl

/-! ### State.rearm -/

@[simp] theorem State.rearm_fb : s.rearm.fb = s.fb := rfl
@[simp] theorem State.rearm_idx : s.rearm.idx = s.idx := rfl
@[simp] theorem State.rearm_segOut : s.rearm.segOut = s.segOut := rfl
@[simp] theorem State.rearm_digEn : s.rearm.digEn = s.digEn := rfl
@[simp] theorem State.rearm_config : s.rearm.config = s.config := rfl
@[simp] theorem State.rearm_timerRearm : s.rearm.timerRearm = true := rfl
@[simp] theorem State.rearm_bcdOut : s.rearm.bcdOut = s.bcdOut := rfl
@[simp] theorem State.rearm_patOut : s.rearm.patOut = s.patOut := rfl
@[simp] theorem State.rearm_events : s.rearm.events = s.events := rfl
@[simp] theorem State.rearm_inputs : s.rearm.inputs = s.inputs := rfl
@[simp] theorem State.rearm_arbCount : s.rearm.arbCount = s.arbCount := rfl

/-! ### State.showBcd -/

@[simp] theorem State.showBcd_fb (b : Bcd) : (s.showBcd b).fb = s.fb := rfl
@[simp] theorem State.showBcd_idx (b : Bcd) : (s.showBcd b).idx = s.idx := rfl
@[simp] theorem State.showBcd_segOut (b : Bcd) : (s.showBcd b).segOut = s.segOut := rfl
@[simp] theorem State.showBcd_digEn (b : Bcd) : (s.showBcd b).digEn = s.digEn := rfl
@[simp] theorem State.showBcd_config (b : Bcd) : (s.showBcd b).config = s.config := rfl
@[simp] theorem State.showBcd_timerRearm (b : Bcd) : (s.showBcd b).timerRearm = s.timerRearm := rfl
@[simp] theorem State.showBcd_bcdOut (b : Bcd) : (s.showBcd b).bcdOut = some b := rfl
@[simp] theorem State.showBcd_patOut (b : Bcd) : (s.showBcd b).patOut = s.patOut := rfl
@[simp] theorem State.showBcd_events (b : Bcd) : (s.showBcd b).events = s.events := rfl
@[simp] theorem State.showBcd_inputs (b : Bcd) : (s.showBcd b).inputs = s.inputs := rfl
@[simp] theorem State.showBcd_arbCount (b : Bcd) : (s.showBcd b).arbCount = s.arbCount := rfl

/-! ### State.showPat -/

@[simp] theorem State.showPat_fb (p : Pattern) : (s.showPat p).fb = s.fb := rfl
@[simp] theorem State.showPat_idx (p : Pattern) : (s.showPat p).idx = s.idx := rfl
@[simp] theorem State.showPat_segOut (p : Pattern) : (s.showPat p).segOut = s.segOut := rfl
@[simp] theorem State.showPat_digEn (p : Pattern) : (s.showPat p).digEn = s.digEn := rfl
@[simp] theorem State.showPat_config (p : Pattern) : (s.showPat p).config = s.config := rfl
@[simp] theorem State.showPat_timerRearm (p : Pattern) : (s.showPat p).timerRearm = s.timerRearm := rfl
@[simp] theorem State.showPat_bcdOut (p : Pattern) : (s.showPat p).bcdOut = s.bcdOut := rfl
@[simp] theorem State.showPat_patOut (p : Pattern) : (s.showPat p).patOut = some p := rfl
@[simp] theorem State.showPat_events (p : Pattern) : (s.showPat p).events = s.events := rfl
@[simp] theorem State.showPat_inputs (p : Pattern) : (s.showPat p).inputs = s.inputs := rfl
@[simp] theorem State.showPat_arbCount (p : Pattern) : (s.showPat p).arbCount = s.arbCount := rfl

/-! ### State.clearOutputs -/

@[simp] theorem State.clearOutputs_fb : s.clearOutputs.fb = s.fb := rfl
@[simp] theorem State.clearOutputs_idx : s.clearOutputs.idx = s.idx := rfl
@[simp] theorem State.clearOutputs_segOut : s.clearOutputs.segOut = s.segOut := rfl
@[simp] theorem State.clearOutputs_digEn : s.clearOutputs.digEn = s.digEn := rfl
@[simp] theorem State.clearOutputs_config : s.clearOutputs.config = s.config := rfl
@[simp] theorem State.clearOutputs_timerRearm : s.clearOutputs.timerRearm = false := rfl
@[simp] theorem State.clearOutputs_bcdOut : s.clearOutputs.bcdOut = none := rfl
@[simp] theorem State.clearOutputs_patOut : s.clearOutputs.patOut = none := rfl
@[simp] theorem State.clearOutputs_events : s.clearOutputs.events = s.events := rfl
@[simp] theorem State.clearOutputs_inputs : s.clearOutputs.inputs = s.inputs := rfl
@[simp] theorem State.clearOutputs_arbCount : s.clearOutputs.arbCount = s.arbCount := rfl

/-! ### State.setInputs -/

@[simp] theorem State.setInputs_fb (l : List StepInput) : (s.setInputs l).fb = s.fb := rfl
@[simp] theorem State.setInputs_idx (l : List StepInput) : (s.setInputs l).idx = s.idx := rfl
@[simp] theorem State.setInputs_segOut (l : List StepInput) : (s.setInputs l).segOut = s.segOut := rfl
@[simp] theorem State.setInputs_digEn (l : List StepInput) : (s.setInputs l).digEn = s.digEn := rfl
@[simp] theorem State.setInputs_config (l : List StepInput) : (s.setInputs l).config = s.config := rfl
@[simp] theorem State.setInputs_timerRearm (l : List StepInput) : (s.setInputs l).timerRearm = s.timerRearm := rfl
@[simp] theorem State.setInputs_bcdOut (l : List StepInput) : (s.setInputs l).bcdOut = s.bcdOut := rfl
@[simp] theorem State.setInputs_patOut (l : List StepInput) : (s.setInputs l).patOut = s.patOut := rfl
@[simp] theorem State.setInputs_events (l : List StepInput) : (s.setInputs l).events = s.events := rfl
@[simp] theorem State.setInputs_inputs (l : List StepInput) : (s.setInputs l).inputs = l := rfl
@[simp] theorem State.setInputs_arbCount (l : List StepInput) : (s.setInputs l).arbCount = s.arbCount := rfl

/-! ### State.nextArb -/

@[simp] theorem State.nextArb_fb : s.nextArb.fb = s.fb := rfl
@[simp] theorem State.nextArb_idx : s.nextArb.idx = s.idx := rfl
@[simp] theorem State.nextArb_segOut : s.nextArb.segOut = s.segOut := rfl
@[simp] theorem State.nextArb_digEn : s.nextArb.digEn = s.digEn := rfl
@[simp] theorem State.nextArb_config : s.nextArb.config = s.config := rfl
@[simp] theorem State.nextArb_timerRearm : s.nextArb.timerRearm = s.timerRearm := rfl
@[simp] theorem State.nextArb_bcdOut : s.nextArb.bcdOut = s.bcdOut := rfl
@[simp] theorem State.nextArb_patOut : s.nextArb.patOut = s.patOut := rfl
@[simp] theorem State.nextArb_events : s.nextArb.events = s.events := rfl
@[simp] theorem State.nextArb_inputs : s.nextArb.inputs = s.inputs := rfl
@[simp] theorem State.nextArb_arbCount : s.nextArb.arbCount = s.arbCount + 1 := rfl

end Sys2Proof.Machine
end

