-- ==== Sys2Proof/Laws/Ops.lean ====
section
/-!
SUPPORT. What each shared operation does, said once: the framebuffer's reads, writes and canonical form, the commit, the
index, and the tick.
-/

namespace Sys2Proof.Machine

/-! ### Positions and frames -/

/-- A fact about every position is a fact about 0, 1 and 2. -/
theorem forall_position {P : Position → Prop} (h0 : P 0) (h1 : P 1) (h2 : P 2) : ∀ i, P i
  | 0 => h0
  | 1 => h1
  | 2 => h2

@[simp] theorem Frame.get_zero (f : Frame) : f.get 0 = f.p0 := rfl
@[simp] theorem Frame.get_one (f : Frame) : f.get 1 = f.p1 := rfl
@[simp] theorem Frame.get_two (f : Frame) : f.get 2 = f.p2 := rfl
@[simp] theorem Frame.set_zero (f : Frame) (p : Pattern) : f.set 0 p = ⟨p, f.p1, f.p2⟩ := rfl
@[simp] theorem Frame.set_one (f : Frame) (p : Pattern) : f.set 1 p = ⟨f.p0, p, f.p2⟩ := rfl
@[simp] theorem Frame.set_two (f : Frame) (p : Pattern) : f.set 2 p = ⟨f.p0, f.p1, p⟩ := rfl

theorem Frame.get_set (f : Frame) (i j : Position) (p : Pattern) :
    (f.set i p).get j = if j = i then p else f.get j := by
  fin_cases i <;> fin_cases j <;> rfl

/-! ### The framebuffer -/

theorem read_cons (a : Nat) (p : Pattern) (m : Memory) (i : Position) :
    Memory.read ((a, p) :: m) i = if a = i.val then p else Memory.read m i := rfl

/-- A cell of one position is all that reading that position sees, and is not seen from another. -/
theorem read_cellOf_append (a : Nat) (p : Pattern) (m : Memory) (i : Position) (hm : a = i.val → m.read i = unlistedByte) :
    Memory.read (cellOf a p ++ m) i = if a = i.val then p else m.read i := by
  unfold cellOf
  split
  · next h => by_cases ha : a = i.val <;> simp_all
  · simp [read_cons]

@[simp] theorem read_nil (i : Position) : Memory.read [] i = unlistedByte := rfl

/-- Reading the canonical list of a content gives the content. -/
@[simp] theorem read_ofFrame (f : Frame) (i : Position) : (Memory.ofFrame f).read i = f.get i := by
  have h2 : ∀ j : Position, Memory.read (cellOf 2 f.p2) j = if 2 = j.val then f.p2 else unlistedByte := fun j => by
    simpa using read_cellOf_append 2 f.p2 [] j (by simp)
  have h1 : ∀ j : Position, Memory.read (cellOf 1 f.p1 ++ cellOf 2 f.p2) j =
      if 1 = j.val then f.p1 else if 2 = j.val then f.p2 else unlistedByte := fun j => by
    rw [read_cellOf_append _ _ _ _ (by rw [h2]; intro h; simp [← h])]
    simp [h2]
  have h0 : Memory.read (cellOf 0 f.p0 ++ (cellOf 1 f.p1 ++ cellOf 2 f.p2)) i =
      if 0 = i.val then f.p0 else if 1 = i.val then f.p1 else if 2 = i.val then f.p2 else unlistedByte := by
    rw [read_cellOf_append _ _ _ _ (by rw [h1]; intro h; simp [← h])]
    simp [h1]
  rw [Memory.ofFrame, List.append_assoc, h0]
  fin_cases i <;> rfl

@[simp] theorem frame_ofFrame (f : Frame) : (Memory.ofFrame f).frame = f := by
  simp [Memory.frame]

/-- The content of a framebuffer, position by position. -/
theorem get_frame (m : Memory) : ∀ i, m.frame.get i = m.read i :=
  forall_position rfl rfl rfl

/-- Frames with the same three reads are one frame. -/
theorem frame_eq_iff (m : Memory) (f : Frame) :
    m.frame = f ↔ m.read 0 = f.p0 ∧ m.read 1 = f.p1 ∧ m.read 2 = f.p2 := by
  cases f; simp [Memory.frame]

/-- The canonical list of any content is canonical. -/
@[simp] theorem wf_ofFrame (f : Frame) : (Memory.ofFrame f).wf = true := by
  unfold Memory.ofFrame Memory.wf cellOf
  split <;> split <;> split <;> simp_all [Memory.wfFrom]

/-- A canonical list from `lo` on lists nothing below `lo`. -/
theorem read_below_wfFrom : ∀ (m : Memory) (lo : Nat) (i : Position), m.wfFrom lo = true → i.val < lo →
    m.read i = unlistedByte
  | [], _, _, _, _ => rfl
  | (a, p) :: rest, lo, i, h, hi => by
    simp only [Memory.wfFrom, Bool.and_eq_true, decide_eq_true_eq] at h
    rw [read_cons, if_neg (by omega)]
    exact read_below_wfFrom rest (a + 1) i h.2 (by omega)

/-- Two canonical lists that read alike are one list. -/
theorem wfFrom_ext : ∀ (m m' : Memory) (lo : Nat), m.wfFrom lo = true → m'.wfFrom lo = true →
    (∀ i : Position, m.read i = m'.read i) → m = m'
  | [], [], _, _, _, _ => rfl
  | [], (a, p) :: rest, lo, _, h', he => by
    simp only [Memory.wfFrom, Bool.and_eq_true, decide_eq_true_eq] at h'
    have := he ⟨a, h'.1.1.2⟩
    simp [read_cons] at this
    exact absurd this.symm h'.1.2
  | (a, p) :: rest, [], lo, h, _, he => by
    simp only [Memory.wfFrom, Bool.and_eq_true, decide_eq_true_eq] at h
    have := he ⟨a, h.1.1.2⟩
    simp [read_cons] at this
    exact absurd this h.1.2
  | (a, p) :: rest, (a', p') :: rest', lo, h, h', he => by
    simp only [Memory.wfFrom, Bool.and_eq_true, decide_eq_true_eq] at h h'
    obtain ⟨⟨⟨hl, ha⟩, hp⟩, hr⟩ := h
    obtain ⟨⟨⟨hl', ha'⟩, hp'⟩, hr'⟩ := h'
    have below : ∀ (m : Memory) (k : Nat) (i : Position), m.wfFrom (k + 1) = true → i.val ≤ k →
        m.read i = unlistedByte := fun m k i h hi => read_below_wfFrom m (k + 1) i h (by omega)
    have hea := he ⟨a, ha⟩
    have hea' := he ⟨a', ha'⟩
    simp only [read_cons] at hea hea'
    have haa : a = a' := by
      rcases Nat.lt_trichotomy a a' with hlt | heq | hgt
      · rw [if_pos trivial, if_neg (by omega), below rest' a' _ hr' (by simpa using Nat.le_of_lt hlt)] at hea
        exact absurd hea hp
      · exact heq
      · rw [if_pos trivial, if_neg (by omega), below rest a _ hr (by simpa using Nat.le_of_lt hgt)] at hea'
        exact absurd hea'.symm hp'
    subst haa
    simp only [if_true] at hea
    subst hea
    have hrest : rest = rest' := wfFrom_ext rest rest' (a + 1) hr hr' fun i => by
      have := he i
      simp only [read_cons] at this
      by_cases hi : a = i.val
      · rw [below rest a i hr (by omega), below rest' a i hr' (by omega)]
      · simpa [hi] using this
    rw [hrest]

/-- A canonical framebuffer is the canonical list of its own content. -/
theorem ofFrame_frame (m : Memory) (h : m.wf = true) : Memory.ofFrame m.frame = m :=
  wfFrom_ext _ _ 0 (wf_ofFrame _) h fun i => by rw [read_ofFrame, get_frame]

theorem frame_write (m : Memory) (i : Position) (p : Pattern) : (m.write i p).frame = m.frame.set i p := by
  simp [Memory.write]

/-- Three whole-position writes leave the canonical list of what was written, whatever was there (R45). -/
@[simp] theorem State.commit_fb (s : State) (f : Frame) : (s.commit f).fb = Memory.ofFrame f := by
  simp [State.commit, Memory.write]

/-- A commit is the framebuffer's change and nothing else. -/
theorem commit_eq (s : State) (f : Frame) : s.commit f = { s with fb := Memory.ofFrame f } := by
  simp [State.commit, Memory.write]

/-! ### The index and the tick -/

@[simp] theorem nextPosition_val (i : Position) : (nextPosition i).val = (i.val + 1) % 3 := rfl

theorem nextPosition_eq_add_one : ∀ i : Position, nextPosition i = i + 1 := by decide

theorem onehot3_getLsbD : ∀ (i : Position) (j : Nat), (onehot3 i).getLsbD j = decide (j = i.val) := by
  intro i j
  by_cases hj : j < 3
  · revert i; interval_cases j <;> decide
  · rw [BitVec.getLsbD_of_ge _ _ (by omega)]
    have := i.isLt
    simp; omega

/-- Everything a tick does (R141): the next state, written out. -/
theorem execRefreshTick_eq (s : State) :
    execRefreshTick s = .next { s with
      idx := nextPosition s.idx
      segOut := s.fb.read (nextPosition s.idx)
      digEn := onehot3 (nextPosition s.idx)
      timerRearm := true
      events := s.events ++ [.digEn 0b000#3, .segOut (s.fb.read (nextPosition s.idx)), .digEn (onehot3 (nextPosition s.idx))] } := by
  simp [execRefreshTick, State.showPosition, State.emitDigEn, State.emitSegOut, State.setIdx, State.rearm]

end Sys2Proof.Machine
end

