-- ==== Sys2Proof/Laws/Numbers.lean ====
section
/-!
SUPPORT. Packed BCD in decimal arithmetic (R80, R81, R83).
-/

namespace Sys2Proof.Machine

/-- Digits OR-ed in at their nibbles are digits added at their weights. -/
theorem or_nibbles : ∀ a b c : Fin 10,
    (0#12 ||| BitVec.ofNat 12 a.val <<< 0) ||| BitVec.ofNat 12 b.val <<< 4 ||| BitVec.ofNat 12 c.val <<< 8 =
      BitVec.ofNat 12 (c.val * 256 + b.val * 16 + a.val) := by decide

/-- The loop of R80 in closed form, within the contract. -/
theorem bcdEncode_eq (v : Nat) (h : v ≤ 999) :
    bcdEncode v = BitVec.ofNat 12 (v / 100 * 256 + v / 10 % 10 * 16 + v % 10) := by
  have key := or_nibbles ⟨v % 10, by omega⟩ ⟨v / 10 % 10, by omega⟩ ⟨v / 100, by omega⟩
  have e : v / 10 / 10 = v / 100 := by omega
  have e' : v / 100 % 10 = v / 100 := by omega
  rw [← key]
  simp only [bcdEncode, bcdLoop, e, e']
  split
  · next h0 => subst h0; rfl
  split
  · next h1 => simp [h1, show v / 100 = 0 by omega]
  split
  · next h2 => simp [h2]
  · rfl

/-- A nibble as a number. -/
theorem digit_eq (b : Bcd) (i : Nat) : digit b i = b.toNat / 16 ^ i % 16 := by
  simp only [digit, BitVec.extractLsb'_toNat, Nat.shiftRight_eq_div_pow]
  rw [Nat.pow_mul]

/-- The three digits the Formatter reads. -/
theorem digit_bcdEncode (v : Nat) (h : v ≤ 999) :
    digit (bcdEncode v) 0 = v % 10 ∧ digit (bcdEncode v) 1 = v / 10 % 10 ∧ digit (bcdEncode v) 2 = v / 100 := by
  have h0 : v % 10 < 10 := by omega
  have h1 : v / 10 % 10 < 10 := by omega
  have h2 : v / 100 < 10 := by omega
  rw [digit_eq, digit_eq, digit_eq, bcdEncode_eq v h, BitVec.toNat_ofNat]
  generalize v % 10 = a at *
  generalize v / 10 % 10 = b at *
  generalize v / 100 = c at *
  norm_num
  omega

end Sys2Proof.Machine
end

