-- ==== Sys2Proof/Laws/Formatter.lean ====
section
/-!
SUPPORT. What the Formatter's frames are, and what each command's meaning does to the state, said once.
-/

namespace Sys2Proof.Machine

theorem inIntRange_iff (x : Int) : inIntRange x = true ↔ -99 ≤ x ∧ x ≤ 999 := by simp [inIntRange]

theorem inExpRange_iff (e : Int) : inExpRange e = true ↔ -2 ≤ e ∧ e ≤ 2 := by simp [inExpRange]

/-- A value in range has a magnitude within the contract of `BCD_ENCODE` (R82). -/
theorem natAbs_le_of_inIntRange {x : Int} (h : inIntRange x = true) : x.natAbs ≤ 999 := by
  rw [inIntRange_iff] at h; omega

/-- `render_int` in decimal arithmetic (R111, R112). -/
theorem renderInt_eq (g : GlyphTable) (x : Int) (h : inIntRange x = true) : renderInt g x = shownInteger g x := by
  obtain ⟨h0, h1, h2⟩ := digit_bcdEncode x.natAbs (natAbs_le_of_inIntRange h)
  have e2 : x.natAbs / 100 = 0 ↔ x.natAbs < 100 := by omega
  have e1 : (x.natAbs < 100 ∧ x.natAbs / 10 % 10 = 0) ↔ x.natAbs < 10 := by omega
  simp only [renderInt, h0, h1, h2, e2, e1, shownInteger]

/-- The frame of `display_integer`. -/
theorem formatInteger_eq (g : GlyphTable) (v : Int) :
    formatInteger g v = if inIntRange v then shownInteger g v else errorFrame g := by
  unfold formatInteger
  split
  · next h => rw [renderInt_eq g v h]
  · rfl

/-- `display_integer` answers next, with its frame committed and nothing else changed. -/
theorem execDisplayInteger_eq (v : Int) (s : State) :
    execDisplayInteger v s = .next { s with fb := Memory.ofFrame (formatInteger s.config.glyph v) } := by
  rw [execDisplayInteger, commit_eq]

/-- `display_fixed_point` answers next, with its frame committed and nothing else changed. -/
theorem execDisplayFixedPoint_eq (m e : Int) (s : State) :
    execDisplayFixedPoint m e s = .next { s with fb := Memory.ofFrame (formatFixedPoint s.config.glyph m e) } := by
  rw [execDisplayFixedPoint, commit_eq]

/-- `display_error` answers next, with the error display committed and nothing else changed. -/
theorem execDisplayError_eq (s : State) :
    execDisplayError s = .next { s with fb := Memory.ofFrame (errorFrame s.config.glyph) } := by
  rw [execDisplayError, commit_eq]

/-- A command, whichever it is, commits its frame. -/
theorem exec_command (i : Instr) (s : State) (f : Frame) (h : commandFrame s.config.glyph i = some f) :
    exec i s = .next { s with fb := Memory.ofFrame f } := by
  cases i with
  | displayInteger v => cases h; exact execDisplayInteger_eq v s
  | displayFixedPoint m e => cases h; exact execDisplayFixedPoint_eq m e s
  | displayError => cases h; exact execDisplayError_eq s
  | refreshTick => cases h
  | bcdEncode v => cases h
  | segMap c => cases h

/-- Forcing a zero changes the position it is asked for, and only where that is BLANK. -/
theorem get_forceZero (g : GlyphTable) (f : Frame) (i j : Position) :
    (forceZero g f i).get j = if j = i ∧ f.get i = g.blank then segMap g 0 else f.get j := by
  unfold forceZero
  split
  · next h => rw [Frame.get_set]; simp [h]
  · next h => simp [h]

end Sys2Proof.Machine
end

