-- ==== Sys2Proof/Laws/PerInstr.lean ====
section
/-!
SUPPORT. The round trip of the encoding, one operation at a time (the family `RoundTrip` of LAWS.json).
-/

/-- A well-formed operation is read back from its own word (R62 to R66, R70, R71). -/
def Sys2Proof.Laws.RoundTrip.Statement (i : Sys2Proof.Instr) : Prop :=
  i.wf = true → Sys2Proof.decode (Sys2Proof.encode i) = .instr i

namespace Sys2Proof.Laws.RoundTrip

theorem displayInteger (value : Int) : Statement (.displayInteger value) := by
  intro h
  simp only [Instr.wf, decide_eq_true_eq] at h
  simp [encode, decode, decodeCommand, valOperand, toInt_ofInt_val h]

theorem displayFixedPoint (mantissa exponent : Int) : Statement (.displayFixedPoint mantissa exponent) := by
  intro h
  simp only [Instr.wf, decide_eq_true_eq] at h
  simp [encode, decode, decodeCommand, valOperand, expOperand, toInt_ofInt_val h.1, toInt_ofInt_exp h.2]

theorem displayError : Statement .displayError := by
  intro _
  simp [encode, decode, decodeCommand]

theorem refreshTick : Statement .refreshTick := fun _ => rfl

theorem bcdEncode (v : Nat) : Statement (.bcdEncode v) := by
  intro h
  simp only [Instr.wf, decide_eq_true_eq] at h
  simp only [encode, decode, BitVec.toNat_ofNat, Nat.mod_eq_of_lt (show v < 2 ^ 10 from h)]

theorem segMap (s : Nat) : Statement (.segMap s) := by
  intro h
  simp only [Instr.wf, decide_eq_true_eq] at h
  simp only [encode, decode, BitVec.toNat_ofNat, Nat.mod_eq_of_lt (show s < 2 ^ 5 from h)]

end Sys2Proof.Laws.RoundTrip
end

