-- ==== Sys2Proof/Laws/Step.lean ====
section
/-!
SUPPORT. Everything a step can do, said once: the framebuffer a step leaves, a step without a tick, and a step with one.
Later proofs cite these and do not unfold the step.
-/

namespace Sys2Proof.Machine

/-- A command word decodes to a command, which has a frame. -/
theorem commandFrame_of_decode {w : CmdWord} {i : Instr} (g : GlyphTable) (h : decode (.command w) = .instr i) :
    ∃ f, commandFrame g i = some f := by
  simp only [decode, decodeCommand] at h
  split at h
  · cases h
  split at h
  · split at h
    · cases h; exact ⟨_, rfl⟩
    · cases h
  split at h
  · cases h; exact ⟨_, rfl⟩
  split at h
  · split at h
    · cases h; exact ⟨_, rfl⟩
    · cases h
  · cases h

/-- The framebuffer after a step with this input: that of its accepted command, or the one before. -/
def fbAfter (g : GlyphTable) (m : Memory) : StepInput → Memory
  | .ports true w _ =>
    match decode (.command w) with
    | .instr i =>
      match commandFrame g i with
      | some f => Memory.ofFrame f
      | none => m
    | .ignored _ => m
  | .ports false _ _ => m
  | .bin _ => m
  | .sym _ => m

theorem frame_fbAfter (g : GlyphTable) (m : Memory) (x : StepInput) :
    (fbAfter g m x).frame = frameAfter g m.frame x := by
  match x with
  | .ports true w due =>
    simp only [fbAfter, frameAfter]
    cases decode (.command w) with
    | ignored why => rfl
    | instr i => cases h : commandFrame g i <;> simp [h]
  | .ports false w due => rfl
  | .bin v => rfl
  | .sym c => rfl

theorem wf_fbAfter (g : GlyphTable) (m : Memory) (x : StepInput) (h : m.wf = true) : (fbAfter g m x).wf = true := by
  unfold fbAfter
  split
  · split
    · split
      · exact wf_ofFrame _
      · exact h
    · exact h
  all_goals exact h

/-- An accepted command word commits its frame, a reserved one changes nothing. -/
theorem runWord_command (w : CmdWord) (due : Bool) (s : State) :
    runWord (.command w) s = .next { s with fb := fbAfter s.config.glyph s.fb (.ports true w due) } := by
  unfold runWord fbAfter
  cases h : decode (.command w) with
  | ignored why => simp [h]
  | instr i =>
    obtain ⟨f, hf⟩ := commandFrame_of_decode s.config.glyph h
    simp only [h, hf]
    exact exec_command i s f hf

theorem runWord_timer (s : State) : runWord (.timer true) s = execRefreshTick s := rfl

/-- What the port `BCD_ENCODE` shows after a step. -/
def bcdShown : StepInput → Option Bcd
  | .ports _ _ _ => none
  | .bin v => some (bcdEncode v.toNat)
  | .sym _ => none

/-- What the port `SEG_MAP` shows after a step. -/
def patShown (g : GlyphTable) : StepInput → Option Pattern
  | .ports _ _ _ => none
  | .bin _ => none
  | .sym c => some (segMap g c.toNat)

/-- A step that samples no tick: its command's commit, or its function's output, and nothing else. -/
theorem stepOn_noTick (x : StepInput) (s : State) (hm : hasMeaning x = true) (hx : ticks x = false) :
    stepOn x s = .next { s with
      fb := fbAfter s.config.glyph s.fb x
      timerRearm := false
      bcdOut := bcdShown x
      patOut := patShown s.config.glyph x } := by
  match x, hm, hx with
  | .ports true w false, _, _ => exact runWord_command w false s.clearOutputs
  | .ports false _ false, _, _ => rfl
  | .bin v, hm, _ =>
    have hv : inBcdContract v.toNat = true := by simpa [hasMeaning, inBcdContract] using hm
    simp only [stepOn, runWord, decode, exec, execBcdEncode, hv, if_true]
    rfl
  | .sym c, _, _ => rfl

/-- The framebuffer a tick sees: the new one where a command comes first in the same step, else the old one (R47). -/
def tickSees (g : GlyphTable) (m : Memory) (n : Nat) (x : StepInput) : Memory :=
  if meetsBoth x && Config.commandFirst n then fbAfter g m x else m

/-- A step that samples a tick, written out: the commit of its command, if any, and the tick. -/
theorem stepOn_tick_eq (x : StepInput) (s : State) (hx : ticks x = true) :
    let seen := tickSees s.config.glyph s.fb s.arbCount x
    stepOn x s = .next { s with
      fb := fbAfter s.config.glyph s.fb x
      idx := nextPosition s.idx
      segOut := seen.read (nextPosition s.idx)
      digEn := onehot3 (nextPosition s.idx)
      timerRearm := true
      bcdOut := none
      patOut := none
      events := s.events ++ showEvents seen (nextPosition s.idx)
      arbCount := if meetsBoth x then s.arbCount + 1 else s.arbCount } := by
  match x, hx with
  | .ports false w true, _ => exact execRefreshTick_eq s.clearOutputs
  | .ports true w true, _ =>
    cases hc : Config.commandFirst s.arbCount <;>
      simp only [stepOn, runPorts, tickSees, meetsBoth, Bool.and_self, Bool.and_false,
        State.clearOutputs_arbCount, hc, if_true, Bool.false_eq_true, if_false, runWord_command w true, andThen,
        runWord_timer, execRefreshTick_eq] <;> rfl

/-- The same, with what the tick saw left open: the framebuffer from before or from after the commit. -/
theorem stepOn_tick (x : StepInput) (s : State) (hx : ticks x = true) :
    ∃ (seen : Memory) (n : Nat), (seen = s.fb ∨ seen = fbAfter s.config.glyph s.fb x) ∧
      stepOn x s = .next { s with
        fb := fbAfter s.config.glyph s.fb x
        idx := nextPosition s.idx
        segOut := seen.read (nextPosition s.idx)
        digEn := onehot3 (nextPosition s.idx)
        timerRearm := true
        bcdOut := none
        patOut := none
        events := s.events ++ showEvents seen (nextPosition s.idx)
        arbCount := n } := by
  refine ⟨_, _, ?_, stepOn_tick_eq x s hx⟩
  unfold tickSees
  split
  · exact .inr rfl
  · exact .inl rfl

/-- The free order is asked for only where a command meets a tick. -/
theorem meetsBoth_of_noTick {x : StepInput} (h : ticks x = false) : meetsBoth x = false := by
  match x, h with
  | .ports c _ false, _ => exact Bool.and_false c
  | .bin _, _ => rfl
  | .sym _, _ => rfl

/-- The one input with no meaning is refused (R82). -/
theorem stepOn_noMeaning (x : StepInput) (s : State) (hm : hasMeaning x = false) :
    stepOn x s = .refused .bcdAbove999 := by
  match x, hm with
  | .bin v, hm =>
    have hv : inBcdContract v.toNat = false := by simpa [hasMeaning, inBcdContract] using hm
    simp [stepOn, runWord, decode, exec, execBcdEncode, hv]

theorem step_cons (s : State) (x : StepInput) (rest : List StepInput) (h : s.inputs = x :: rest) :
    step s = stepOn x (s.setInputs rest) := by
  simp [step, cycle, h]

/-- With nothing presented a step only ends the outputs of the last one. -/
theorem step_nil (s : State) (h : s.inputs = []) : step s = .next s.clearOutputs := by
  simp [step, cycle, h, stepOn, idleInput, runPorts]

end Sys2Proof.Machine
end

