-- ==== Sys2Proof/Tests/Slice0.lean ====
section
/-!
SUPPORT. Tests: expected values are the spec's own (95_test_vectors.md, 30_encoding.md R67 and R72, 41_segment_mapper.md R92),
and a witness for the hypotheses of every statement that has some.
-/

namespace Sys2Proof.Tests

open Sys2Proof Sys2Proof.Machine

/-! ### Helpers -/

/-- The next state of an outcome, if it has one. -/
def next? : Host.Outcome State Fault Refusal → Option State
  | .next s => some s
  | .fault _ => none
  | .refused _ => none

/-- The reason of a refusal, if the outcome is one. -/
def refusal? : Host.Outcome State Fault Refusal → Option Refusal
  | .next _ => none
  | .fault _ => none
  | .refused r => some r

/-- The three positions of a framebuffer. -/
def shown (m : Memory) : List Pattern := [m.read 0, m.read 1, m.read 2]

/-- What an operation leaves in the framebuffer of a small state, whose framebuffer held 0.05 before. -/
def showsOn (i : Instr) : Option (List Pattern) :=
  (next? (exec i (State.reset.commit ⟨0x6B#8, 0x77#8, 0xF7#8⟩))).map fun t => shown t.fb

/-- The state with a framebuffer, an index and inputs. -/
def small (f : Frame) (i : Position) (l : List StepInput) : State := ((State.reset.commit f).setIdx i).setInputs l

/-! ### Well-formedness: each check refuses an ill-formed term (R71) -/

theorem test_wf_value_too_large : (Instr.displayInteger 32768).wf = false := by decide
theorem test_wf_value_too_small : (Instr.displayInteger (-32769)).wf = false := by decide
theorem test_wf_mantissa_does_not_fit : (Instr.displayFixedPoint 32768 0).wf = false := by decide
theorem test_wf_exponent_does_not_fit :
    (Instr.displayFixedPoint 0 128).wf = false ∧ (Instr.displayFixedPoint 0 (-129)).wf = false := by decide
theorem test_wf_bin_does_not_fit : (Instr.bcdEncode 1024).wf = false := by decide
theorem test_wf_sym_does_not_fit : (Instr.segMap 32).wf = false := by decide
theorem test_wf_ends_of_the_fields :
    ∀ i ∈ [Instr.displayInteger 32767, .displayInteger (-32768), .displayFixedPoint (-32768) (-128),
      .displayFixedPoint 32767 127, .displayError, .refreshTick, .bcdEncode 1023, .segMap 31], i.wf = true := by decide

/-! ### Decoding: words written out bit by bit from the encoding (R62 to R66, R70, R72) -/

theorem test_decode_display_integer :
    decode (.command 0b0001_0000_00000000_1111111111111001#32) = .instr (.displayInteger (-7)) := by decide
theorem test_decode_display_fixed_point :
    decode (.command 0b0010_0000_11111111_0000000000011001#32) = .instr (.displayFixedPoint 25 (-1)) := by decide
theorem test_decode_display_error :
    decode (.command 0b0011_0000_00000000_0000000000000000#32) = .instr .displayError := by decide
theorem test_decode_refresh_tick : decode (.timer true) = .instr .refreshTick := by decide
theorem test_decode_no_tick : decode (.timer false) = .ignored .noTick := by decide
theorem test_decode_bcd_encode : decode (.bin 0b0100110001#10) = .instr (.bcdEncode 305) := by decide
theorem test_decode_seg_map : decode (.sym 0b10010#5) = .instr (.segMap 0x12) := by decide

/-- The reserved words of 95_test_vectors.md section 2.6, each with its case of R67. -/
theorem test_decode_reserved_words :
    ∀ r ∈ [(0x00000000#32, Ignored.reservedOp), (0x40000000#32, .reservedOp), (0x50000000#32, .reservedOp),
      (0xF0000000#32, .reservedOp), (0x11000000#32, .reservedBits), (0x10010005#32, .integerExponent),
      (0x30000001#32, .errorOperand), (0x21FF0019#32, .reservedBits)], decode (.command r.1) = .ignored r.2 := by decide

/-- The ends of the operand fields (R64, R65; 95_test_vectors.md sections 2.3, 2.4). -/
theorem test_decode_field_ends :
    decode (.command 0x10008000#32) = .instr (.displayInteger (-32768)) ∧
    decode (.command 0x20800000#32) = .instr (.displayFixedPoint 0 (-128)) ∧
    decode (.command 0x207F0000#32) = .instr (.displayFixedPoint 0 127) := by decide

theorem test_encode_words :
    encode (.displayFixedPoint (-25) (-2)) = .command 0x20FEFFE7#32 ∧
    encode (.displayInteger 32767) = .command 0x10007FFF#32 := by decide

theorem test_table_words :
    decodeTableWord 32 0x20FE0005 = some (.displayFixedPoint 5 (-2)) ∧ decodeTableWord 32 0x50000000 = none ∧
    decodeTableWord 8 1 = some .refreshTick ∧ decodeTableWord 8 0 = some (.segMap 0) ∧
    decodeTableWord 16 999 = some (.bcdEncode 999) ∧ decodeTableWord 1 1 = some .refreshTick ∧
    decodeTableWord 10 305 = some (.bcdEncode 305) ∧ decodeTableWord 5 1 = some (.segMap 1) := by decide

/-! ### The glyph table (41_segment_mapper.md R92, its hex column against its segments column) -/

theorem test_glyph_table :
    (List.range 21).map (segMap glyphDefault) =
      [0x77#8, 0x24#8, 0x5D#8, 0x6D#8, 0x2E#8, 0x6B#8, 0x7B#8, 0x25#8, 0x7F#8, 0x6F#8, 0x3F#8,
       0x7A#8, 0x53#8, 0x7C#8, 0x5B#8, 0x1B#8, 0x80#8, 0x08#8, 0x18#8, 0x00#8, 0x00#8] := by decide

/-! ### The operations: the vectors of 95_test_vectors.md section 2 -/

theorem test_bcd_encode_vectors :
    ∀ r ∈ [(0, 0x000#12), (7, 0x007#12), (10, 0x010#12), (99, 0x099#12), (100, 0x100#12), (305, 0x305#12),
      (909, 0x909#12), (999, 0x999#12)],
      (next? (exec (.bcdEncode r.1) State.reset)).map (·.bcdOut) = some (some r.2) := by decide

theorem test_bcd_encode_refused :
    ∀ v ∈ [1000, 1023], refusal? (exec (.bcdEncode v) State.reset) = some .bcdAbove999 := by decide

theorem test_seg_map_port :
    (next? (exec (.segMap 0x07) State.reset)).map (·.patOut) = some (some 0x25#8) ∧
    (next? (exec (.segMap 0x1F) State.reset)).map (·.patOut) = some (some 0x00#8) := by decide

theorem test_display_integer_in_range :
    ∀ r ∈ [((0 : Int), [0x77#8, 0x00#8, 0x00#8]), (9, [0x6F#8, 0x00#8, 0x00#8]), (10, [0x77#8, 0x24#8, 0x00#8]),
      (42, [0x5D#8, 0x2E#8, 0x00#8]), (100, [0x77#8, 0x77#8, 0x24#8]), (101, [0x24#8, 0x77#8, 0x24#8]),
      (305, [0x6B#8, 0x77#8, 0x6D#8]), (999, [0x6F#8, 0x6F#8, 0x6F#8]), (-1, [0x24#8, 0x00#8, 0x08#8]),
      (-10, [0x77#8, 0x24#8, 0x08#8]), (-99, [0x6F#8, 0x6F#8, 0x08#8])],
      showsOn (.displayInteger r.1) = some r.2 := by decide

theorem test_display_integer_out_of_range :
    ∀ v ∈ [(1000 : Int), 32767, -100, -32768], showsOn (.displayInteger v) = some [0x18#8, 0x18#8, 0x5B#8] := by decide

theorem test_display_fixed_point_shown :
    ∀ r ∈ [((25 : Int), (-1 : Int), [0x6B#8, 0xDD#8, 0x00#8]), (5, -2, [0x6B#8, 0x77#8, 0xF7#8]),
      (0, -2, [0x77#8, 0x77#8, 0xF7#8]), (7, -1, [0x25#8, 0xF7#8, 0x00#8]), (100, -1, [0x77#8, 0xF7#8, 0x24#8]),
      (123, -2, [0x6D#8, 0x5D#8, 0xA4#8]), (-5, -1, [0x6B#8, 0xF7#8, 0x08#8]), (-5, -2, [0x6B#8, 0x77#8, 0x88#8]),
      (-25, -2, [0x6B#8, 0x5D#8, 0x88#8]), (7, 0, [0x25#8, 0x00#8, 0x00#8]), (99, 1, [0x77#8, 0x6F#8, 0x6F#8]),
      (7, 2, [0x77#8, 0x77#8, 0x25#8]), (-9, 1, [0x77#8, 0x6F#8, 0x08#8])],
      showsOn (.displayFixedPoint r.1 r.2.1) = some r.2.2 := by decide

theorem test_display_fixed_point_errors :
    ∀ r ∈ [((1000 : Int), (-1 : Int)), (-100, -2), (100, 1), (-10, 1), (656, 2), (32767, 2), (-32768, 2), (5, 3),
      (5, -3), (0, 127), (0, -128)],
      showsOn (.displayFixedPoint r.1 r.2) = some [0x18#8, 0x18#8, 0x5B#8] := by decide

theorem test_display_error : showsOn .displayError = some [0x18#8, 0x18#8, 0x5B#8] := by decide

/-- What a tick leaves at an index, with the framebuffer of -7. -/
def tickFrom (i : Position) : Option State := next? (exec .refreshTick (small ⟨0x25#8, 0x00#8, 0x08#8⟩ i []))

/-- 95_test_vectors.md section 2.7, all three rows. -/
theorem test_refresh_tick_rows :
    ((tickFrom 0).map (·.idx) = some 1 ∧ (tickFrom 0).map (·.segOut) = some 0x00#8 ∧
      (tickFrom 0).map (·.digEn) = some 0b010#3) ∧
    ((tickFrom 1).map (·.idx) = some 2 ∧ (tickFrom 1).map (·.segOut) = some 0x08#8 ∧
      (tickFrom 1).map (·.digEn) = some 0b100#3) ∧
    ((tickFrom 2).map (·.idx) = some 0 ∧ (tickFrom 2).map (·.segOut) = some 0x25#8 ∧
      (tickFrom 2).map (·.digEn) = some 0b001#3) := by decide

theorem test_refresh_tick_events :
    (tickFrom 1).map (·.timerRearm) = some true ∧ (tickFrom 1).map (·.events) =
      some [.digEn 0b000#3, .segOut 0x08#8, .digEn 0b100#3] := by decide

/-! ### The step -/

/-- A reserved word changes no framebuffer and no line (P3, step 3). -/
theorem test_step_ignores_reserved :
    (next? (step (small ⟨0x5D#8, 0x2E#8, 0x00#8⟩ 0 [.ports true 0x50000000#32 false]))).map
      (fun t => (shown t.fb, t.idx, t.segOut, t.digEn, t.timerRearm)) =
      some ([0x5D#8, 0x2E#8, 0x00#8], 0, 0x00#8, 0b000#3, false) := by decide

/-- A word presented without its strobe is ignored (R61). -/
theorem test_step_needs_the_strobe :
    (next? (step (small ⟨0x5D#8, 0x2E#8, 0x00#8⟩ 0 [.ports false 0x30000000#32 false]))).map (fun t => shown t.fb) =
      some [0x5D#8, 0x2E#8, 0x00#8] := by decide

/-- The first operation after reset is the word presented (P1, step 1). -/
theorem test_first_word_after_reset :
    (next? (step (State.reset.withFetchWord 32 0x1000FFF9))).map (fun t => (shown t.fb, t.idx, t.digEn)) =
      some ([0x25#8, 0x00#8, 0x08#8], 0, 0b000#3) := by decide

/-- A tick ends with its rearm: the next step without one drives `TIMER_REARM` to 0 (R140). -/
theorem test_rearm_is_a_pulse :
    (next? (step (State.rearm (small ⟨0x25#8, 0x00#8, 0x08#8⟩ 1 [.ports false 0#32 false])))).map (·.timerRearm) =
      some false := by decide

/-- P4, step 3: both orders leave the error display and the index at 2; only the pattern shown differs. -/
theorem test_same_step_either_order :
    let s := small ⟨0x77#8, 0x77#8, 0x25#8⟩ 1 []
    ((next? (andThen (runWord (.command 0x2002000A#32) s) (runWord (.timer true)))).map
      fun t => (shown t.fb, t.idx, t.segOut)) = some ([0x18#8, 0x18#8, 0x5B#8], 2, 0x5B#8) ∧
    ((next? (andThen (runWord (.timer true) s) (runWord (.command 0x2002000A#32)))).map
      fun t => (shown t.fb, t.idx, t.segOut)) = some ([0x18#8, 0x18#8, 0x5B#8], 2, 0x25#8) := by decide

/-! ### The framebuffer's list of cells (log 8) -/

theorem test_memory_writing_blank_removes_the_cell :
    (State.reset.commit ⟨0x25#8, 0x00#8, 0x08#8⟩).fb = [(0, 0x25#8), (2, 0x08#8)] ∧
    Memory.write [(0, 0x25#8), (2, 0x08#8)] 0 0x00#8 = [(2, 0x08#8)] := by decide

theorem test_memory_wf_refuses :
    Memory.wf [(2, 0x08#8), (0, 0x25#8)] = false ∧ Memory.wf [(1, 0x00#8)] = false ∧ Memory.wf [(3, 0x08#8)] = false ∧
    Memory.wf [(0, 0x25#8), (2, 0x08#8)] = true ∧ Memory.wf State.reset.fb = true := by decide

/-! ### Reading the display (R96) -/

theorem test_read_pattern :
    readPattern glyphDefault 0xDD#8 = some (.digit 2) ∧ readPattern glyphDefault 0x88#8 = some .minus ∧
    readPattern glyphDefault 0x00#8 = some .blank ∧ readPattern glyphDefault 0x5B#8 = some .errE ∧
    readPattern glyphDefault 0x18#8 = some .errR ∧ readPattern glyphDefault 0x01#8 = none := by decide

/-! ### Witnesses: concrete states and operands that meet the hypotheses of the statements -/

/-- The state of P1 after its second step: one tick shown, the framebuffer of -7. -/
def ticked : State :=
  { small ⟨0x25#8, 0x00#8, 0x08#8⟩ 1 [] with
    digEn := 0b010#3, timerRearm := true, events := [.digEn 0b000#3, .segOut 0x00#8, .digEn 0b010#3] }

theorem witness_glyph_hypotheses : GlyphsOk State.reset.config.glyph ∧ PointOk State.reset.config.glyph := by decide

theorem witness_DecodeOfEncodeIsTheOperation :
    (Instr.displayFixedPoint (-32768) 127).wf = true ∧ (Instr.bcdEncode 1023).wf = true := by decide

theorem witness_EncodeOfDecodeIsTheWord : decode (.command 0x20FE0005#32) = .instr (.displayFixedPoint 5 (-2)) := by decide

theorem witness_ReservedCommandWordsAreIgnored :
    (∀ w ∈ [0x00000000, 0x0FFFFFFF, 0x40000000, 0xFFFFFFFF, 0x11000000, 0x10010005, 0x10FF0000, 0x30000001, 0x30FFFFFF],
      reservedWord w) ∧ ¬ reservedWord 0x1000FFFF ∧ ¬ reservedWord 0x20FF0000 ∧ ¬ reservedWord 0x30000000 ∧
    (small ⟨0x5D#8, 0x2E#8, 0x00#8⟩ 0 [.ports true 0x50000000#32 false]).inputs = [.ports true 0x50000000#32 false] ∧
    (small ⟨0x5D#8, 0x2E#8, 0x00#8⟩ 0 [.ports true 0x10010005#32 true]).inputs = [.ports true 0x10010005#32 true] ∧
    reservedWord (0x50000000#32).toNat ∧ reservedWord (0x10010005#32).toNat := by decide

theorem witness_BcdEncodePacksDecimalDigits : (0 : Nat) ≤ 999 ∧ (999 : Nat) ≤ 999 := by decide

theorem witness_BcdNibblesAreDecimalDigits : (999 : Nat) ≤ 999 ∧ (0 : Nat) < 3 ∧ (2 : Nat) < 3 := by decide

theorem witness_BcdEncodeAbove999IsRefused :
    (999 : Nat) < 1000 ∧ inIntRange (-99) = true ∧ inIntRange 999 = true := by decide

theorem witness_DisplayIntegerCommitsTheDigits :
    ((0x1000FFF9#32).toNat / 2 ^ 28 = 1 ∧ (0x1000FFF9#32).toNat / 2 ^ 16 % 2 ^ 12 = 0) ∧
    ((0x10010005#32).toNat / 2 ^ 28 = 1 ∧ ¬ (0x10010005#32).toNat / 2 ^ 16 % 2 ^ 12 = 0) := by decide

theorem witness_DisplayFixedPointCommitsTheValue :
    ((0x20FF0019#32).toNat / 2 ^ 28 = 2 ∧ (0x20FF0019#32).toNat / 2 ^ 24 % 16 = 0) ∧
    ((0x21FF0019#32).toNat / 2 ^ 28 = 2 ∧ ¬ (0x21FF0019#32).toNat / 2 ^ 24 % 16 = 0) ∧
    GlyphsOk State.reset.config.glyph := by decide

theorem witness_DisplayErrorCommitsTheErrorDisplay :
    (0x30000001#32).toNat / 2 ^ 28 = 3 ∧ (0x30000001#32) ≠ 0x30000000#32 := by decide

theorem witness_RangeErrorsCommitTheErrorDisplay :
    ((-100 : Int) < -99 ∧ (999 : Int) < 1000) ∧ ((-3 : Int) < -2 ∧ (2 : Int) < 3) ∧
    ((999 : Int) < 1000 * 10 ^ (0 : Int).toNat ∧ (-10 : Int) * 10 ^ (1 : Int).toNat < -99 ∧
      (999 : Int) < 10 * 10 ^ (2 : Int).toNat) ∧
    ((-1 : Int) = -1 ∧ (999 : Int) < 1000 ∧ (-2 : Int) = -2 ∧ (-100 : Int) < -99) := by decide

theorem witness_ErrorDisplayMeansRangeError :
    GlyphsOk State.reset.config.glyph ∧ Instr.displayInteger 999 ≠ .displayError ∧
    (commandFrame State.reset.config.glyph (.displayInteger 999)).isSome ∧
    (next? (exec (.displayInteger 999) State.reset)).isSome ∧
    Instr.displayFixedPoint 10 2 ≠ .displayError ∧
    (commandFrame State.reset.config.glyph (.displayFixedPoint 10 2)).isSome ∧
    (next? (exec (.displayFixedPoint 10 2) State.reset)).isSome := by decide

theorem witness_PlacePointForcesZerosAndSetsThePoint :
    (1 : Position) ≠ 0 ∧ (2 : Position) ≠ 0 ∧ GlyphsOk glyphDefault ∧ (-99 : Int) ≤ 999 ∧ (999 : Int) ≤ 999 := by decide

theorem witness_NonNegativeExponentsScaleExactly :
    fitsVal (-32768) ∧ fitsVal 32767 ∧ ((2 : Int) = 0 ∨ (2 : Int) = 1 ∨ (2 : Int) = 2) := by decide

theorem witness_IntegerReadsBack :
    GlyphsOk State.reset.config.glyph ∧ (-99 : Int) ≤ -99 ∧ (-99 : Int) ≤ 999 ∧
    (next? (exec (.displayInteger (-99)) State.reset)).isSome ∧ (next? (exec (.displayInteger 999) State.reset)).isSome := by
  decide

theorem witness_FixedPointReadsBack :
    GlyphsOk State.reset.config.glyph ∧ PointOk State.reset.config.glyph ∧
    (next? (exec (.displayFixedPoint (-9) 1) State.reset)).isSome ∧
    ((0 : Int) ≤ 1 ∧ (1 : Int) ≤ 2 ∧ (-99 : Int) ≤ -9 * 10 ^ (1 : Int).toNat ∧ (-9 : Int) * 10 ^ (1 : Int).toNat ≤ 999) ∧
    (next? (exec (.displayFixedPoint (-99) (-2)) State.reset)).isSome ∧
    (((-2 : Int) = -1 ∨ (-2 : Int) = -2) ∧ (-99 : Int) ≤ -99 ∧ (-99 : Int) ≤ 999) := by decide

/-- A point is lit at position 2 for (5, -2), so no clause of the statement is empty. -/
theorem witness_PointNeverFloats :
    GlyphsOk State.reset.config.glyph ∧ PointOk State.reset.config.glyph ∧
    (next? (exec (.displayFixedPoint 5 (-2)) State.reset)).map (fun t => (shown t.fb).map pointLit) =
      some [false, false, true] := by decide

theorem witness_FramebufferDependsOnTheCommandAlone :
    let s := small ⟨0x25#8, 0x00#8, 0x08#8⟩ 1 [.ports true 0x30000000#32 false]
    let s' := small ⟨0x77#8, 0x77#8, 0x25#8⟩ 2 [.ports true 0x30000000#32 false]
    s.config.glyph = s'.config.glyph ∧ decode (.command 0x30000000#32) = .instr .displayError ∧
    s.inputs = [.ports true 0x30000000#32 false] ∧ s'.inputs = [.ports true 0x30000000#32 false] ∧
    (next? (step s)).isSome ∧ (next? (step s')).isSome := by decide

theorem witness_RepeatedCommandChangesNothing :
    (commandFrame ticked.config.glyph (.displayFixedPoint 25 (-1))).isSome ∧
    (next? (exec (.displayFixedPoint 25 (-1)) ticked)).isSome := by decide

theorem witness_EqualReadsAreEqualFramebuffers :
    Memory.wf [(0, 0x25#8), (2, 0x08#8)] = true ∧
    ∀ i, Memory.read [(0, 0x25#8), (2, 0x08#8)] i = Memory.read ticked.fb i := by decide

theorem witness_TickReadsOnePositionAndCompletes :
    Memory.read [(2, 0x08#8)] (nextPosition ticked.idx) = ticked.fb.read (nextPosition ticked.idx) := by decide

theorem witness_TickBreaksBeforeItMakes :
    (next? (exec .refreshTick ticked)).isSome ∧
    [OutEvent.digEn 0b000#3, .segOut 0x08#8, .digEn 0b100#3] = [.digEn 0b000#3] ++ .segOut 0x08#8 :: [.digEn 0b100#3] ∧
    [OutEvent.digEn 0b000#3, .segOut 0x08#8, .digEn 0b100#3] = [.digEn 0b000#3, .segOut 0x08#8] ++ .digEn 0b100#3 :: [] ∧
    (0b100#3) ≠ 0b000#3 := by decide

theorem witness_ThreeTicksShowEveryPosition :
    (ticked.setInputs [.ports false 0#32 true, .ports false 1#32 true, .ports false 2#32 true, .sym 7#5]).inputs =
      .ports false 0#32 true :: .ports false 1#32 true :: .ports false 2#32 true :: [.sym 7#5] := by decide

/-- Inputs with a meaning: with no tick, with ticks, with a function at the end of its contract. -/
theorem witness_runs_have_meaning :
    (∀ x ∈ (ticked.setInputs [.ports true 0x1000002A#32 false, .ports true 0x50000000#32 true, .ports false 0#32 true,
      .bin 999#10, .sym 31#5]).inputs, hasMeaning x = true) ∧
    ticksDue [.ports true 0x1000002A#32 false, .ports true 0x50000000#32 true, .ports false 0#32 true] = 2 ∧
    ticksDue [.ports true 0x1000002A#32 false, .bin 999#10] = 0 := by decide

theorem witness_LinesHoldBetweenTicks :
    let s := ticked.setInputs [.ports true 0x30000000#32 false]
    s.inputs = [.ports true 0x30000000#32 false] ∧ (next? (step s)).isSome ∧
    ticks (.ports true 0x30000000#32 false) = false ∧ ticks (.ports false 0#32 true) = true := by decide

theorem witness_StepRunsTheDecodedOperation :
    (ticked.setInputs [.ports true 0x20FF0019#32 false]).inputs = [.ports true 0x20FF0019#32 false] ∧
    decode (.command 0x20FF0019#32) = .instr (.displayFixedPoint 25 (-1)) ∧
    (ticked.setInputs [.ports false 0#32 true]).inputs = [.ports false 0#32 true] ∧
    (ticked.setInputs [.bin 305#10]).inputs = [.bin 305#10] ∧ (ticked.setInputs [.sym 7#5]).inputs = [.sym 7#5] := by
  decide

theorem witness_StepWithoutInputsChangesNothing :
    ticked.inputs = [] ∧
    (ticked.setInputs [.ports false 0x30000000#32 false]).inputs = [.ports false 0x30000000#32 false] := by decide

theorem witness_PresentedTableWordRunsNext :
    decodeTableWord 32 0x30000000 = some .displayError ∧ decodeTableWord 16 1023 = some (.bcdEncode 1023) := by decide

theorem witness_same_step_hypotheses :
    (small ⟨0x77#8, 0x77#8, 0x25#8⟩ 1 [.ports true 0x2002000A#32 true]).inputs = [.ports true 0x2002000A#32 true] ∧
    decode (.command 0x2002000A#32) = .instr (.displayFixedPoint 10 2) ∧
    commandFrame glyphDefault (.displayFixedPoint 10 2) = some ⟨0x18#8, 0x18#8, 0x5B#8⟩ := by decide

/-- The contract holds of an input within it, and of every operation that is no `BCD_ENCODE`. -/
theorem witness_OperationsChangeOnlyTheirOwn :
    (∀ v, Instr.bcdEncode 999 = .bcdEncode v → v ≤ 999) ∧ ∀ v, Instr.refreshTick = .bcdEncode v → v ≤ 999 := by
  constructor
  · intro v h; injection h; omega
  · intro v h; cases h

theorem witness_ParametersNeverChange : (next? (step (ticked.setInputs [.ports true 0x30000000#32 false]))).isSome := by decide

/-- A state that meets the display invariant with a digit line on, and steps on. -/
theorem witness_display_invariant :
    ticked.Inv ∧ (next? (step (ticked.setInputs [.ports false 0#32 true]))).isSome ∧
    (ticked.setInputs [.ports false 0#32 true]).Inv ∧
    ticked.events = [.digEn 0b000#3] ++ (.segOut 0x00#8 :: [.digEn 0b010#3]) :=
  ⟨⟨by decide, by decide, by decide, by decide⟩, by decide, ⟨by decide, by decide, by decide, by decide⟩, by decide⟩

theorem witness_EveryStepKeepsWrittenPatterns :
    (∀ j, WrittenPattern ticked.config.glyph (ticked.fb.read j)) ∧
    (next? (step (ticked.setInputs [.ports true 0x20FEFFFB#32 false]))).isSome := by decide

/-- The three shapes of input of the statement: the last of a list, one with more to come, and none. -/
theorem witness_StepIsTheBlocksStepOnItsInput :
    (ticked.setInputs [.bin 1000#10]).inputs = [.bin 1000#10] ∧
    (ticked.setInputs [.ports true 0x30000000#32 true, .sym 7#5]).inputs = .ports true 0x30000000#32 true :: [.sym 7#5] ∧
    ticked.inputs = [] := by decide

/-- The step of R22 on an argument: the error display, and nothing output, where the block showed -7. -/
theorem test_block_step :
    (match blockStep configDefault 0 (.ports true 0x30000000#32 false) ticked.toBlock with
      | .next (b, o) => some (shown b.fb, b.idx, o.timerRearm, o.events)
      | .fault _ => none
      | .refused _ => none) = some ([0x18#8, 0x18#8, 0x5B#8], 1, false, []) := by decide

theorem witness_SourceScenariosHold : GlyphsOk ticked.config.glyph := by decide

end Sys2Proof.Tests
end

section
/-!
PROOFS. The pure function `BCD_ENCODE` at its port (40_bcd_encoder.md).
-/

namespace Sys2Proof.Machine

/-- Within the contract (R82) `BCD_ENCODE` completes, and its port alone changes. -/
theorem exec_bcdEncode_of_inBcdContract {v : Nat} (h : inBcdContract v = true) (s : State) :
    exec (.bcdEncode v) s = .next (s.showBcd (bcdEncode v)) :=
  if_pos h

/-- Settles O6: the port shows what the loop of R80 packs, and `bcdEncode_eq` gives that in closed form. -/
theorem bcdEncodePacksDecimalDigits : Obligations.BcdEncodePacksDecimalDigits := by
  refine ⟨fun _ => rfl, fun v s hv => ?_⟩
  rw [exec_bcdEncode_of_inBcdContract (decide_eq_true hv), bcdEncode_eq v hv, State.showBcd]

end Sys2Proof.Machine
end

section
/-!
PROOFS. The tick of the Multiplex Scheduler (43_mux_scheduler.md).
-/

namespace Sys2Proof.Machine

/-- The arm of `exec` for the tick. -/
theorem exec_refreshTick (s : State) : exec .refreshTick s = execRefreshTick s := rfl

/-- Settles O25: every clause is read off `execRefreshTick_eq`, the index and the line by their own lemmas. -/
theorem refreshTickShowsTheNextPosition : Obligations.RefreshTickShowsTheNextPosition := by
  refine ⟨Laws.RoundTrip.refreshTick rfl, fun s => ⟨_, (exec_refreshTick s).trans (execRefreshTick_eq s), ?_⟩⟩
  exact ⟨nextPosition_val s.idx, rfl, onehot3_getLsbD (nextPosition s.idx), rfl, rfl, rfl⟩

/-- Settles O26: `execRefreshTick_eq` names the framebuffer through the one read that `hread` equates. -/
theorem tickReadsOnePositionAndCompletes : Obligations.TickReadsOnePositionAndCompletes := by
  intro s m hread
  refine ⟨_, (exec_refreshTick s).trans (execRefreshTick_eq s), ?_, rfl⟩
  simp only [exec_refreshTick, execRefreshTick_eq, hread]

end Sys2Proof.Machine
end

section
/-!
PROOFS. The error class RANGE (60_exceptions.md R161): which operands meet it, and what a command that meets it commits.
-/

namespace Sys2Proof.Machine

theorem inIntRange_eq_false_iff (x : Int) : inIntRange x = false ↔ x < -99 ∨ 999 < x := by
  rw [← Bool.not_eq_true, inIntRange_iff]; omega

theorem inExpRange_eq_false_iff (e : Int) : inExpRange e = false ↔ e < -2 ∨ 2 < e := by
  rw [← Bool.not_eq_true, inExpRange_iff]; omega

/-- The cause of RANGE for `display_integer`, R161(a). -/
theorem errorClassOf_displayInteger_eq_range_iff (v : Int) :
    errorClassOf (.displayInteger v) = some .range ↔ v < -99 ∨ 999 < v := by
  rw [← inIntRange_eq_false_iff]
  simp [errorClassOf]

/-- The causes of RANGE for `display_fixed_point`, R161(b) to (d). -/
theorem errorClassOf_displayFixedPoint_eq_range_iff (m e : Int) :
    errorClassOf (.displayFixedPoint m e) = some .range ↔
      (e < -2 ∨ 2 < e) ∨ (0 ≤ e ∧ (scaled m e < -99 ∨ 999 < scaled m e)) ∨ (e < 0 ∧ (m < -99 ∨ 999 < m)) := by
  rw [← inExpRange_eq_false_iff, ← inIntRange_eq_false_iff, ← inIntRange_eq_false_iff]
  cases he : inExpRange e with
  | false => simp [errorClassOf, he]
  | true =>
    by_cases h0 : 0 ≤ e
    · simp [errorClassOf, he, h0]
    · simp [errorClassOf, he, h0, Int.not_le.mp h0]

/-- Every operation that meets RANGE is a command, and its frame is the error display. -/
theorem commandFrame_of_range (g : GlyphTable) {i : Instr} (h : errorClassOf i = some .range) :
    commandFrame g i = some (errorFrame g) := by
  cases i with
  | displayInteger v =>
    have hv : inIntRange v = false := by simpa [errorClassOf] using h
    simp [commandFrame, formatInteger, hv]
  | displayFixedPoint m e =>
    rw [commandFrame, formatFixedPoint]
    split
    · rfl
    · next he =>
      split
      · next h0 =>
        have hx : inIntRange (scaled m e) = false := by simpa [errorClassOf, he, h0] using h
        simp [formatInteger, hx]
      · next h0 =>
        have hm : inIntRange m = false := by simpa [errorClassOf, he, h0] using h
        simp [hm]
  | displayError => cases h
  | refreshTick => cases h
  | bcdEncode v => cases h
  | segMap c => simp [errorClassOf] at h

/-- A command completes, changes only the framebuffer, and leaves its frame there. -/
theorem exec_command_frame {i : Instr} {s : State} {f : Frame} (h : commandFrame s.config.glyph i = some f) :
    ∃ t, exec i s = .next t ∧ OnlyFramebuffer s t ∧ t.fb.frame = f :=
  ⟨_, exec_command i s f h, rfl, frame_ofFrame f⟩

/-- Settles O14: each cause of R161 is the class RANGE, and the frame of every command in that class is the error display. -/
theorem rangeErrorsCommitTheErrorDisplay : Obligations.RangeErrorsCommitTheErrorDisplay := by
  intro s shows
  have hshows {i : Instr} (h : errorClassOf i = some .range) : shows i :=
    exec_command_frame (commandFrame_of_range _ h)
  have hfixed (m e : Int) := (errorClassOf_displayFixedPoint_eq_range_iff m e).mpr
  refine ⟨fun v hv => hshows ?_, fun m e he => hshows ?_, fun m e he hx => hshows ?_, fun m e he hm => hshows ?_⟩
  · exact (errorClassOf_displayInteger_eq_range_iff v).mpr hv
  · exact hfixed m e (.inl he)
  · exact hfixed m e (.inr (.inl ⟨by omega, hx⟩))
  · exact hfixed m e (.inr (.inr ⟨by omega, hm⟩))

end Sys2Proof.Machine
end

section
/-!
PROOFS. Break before make inside one tick (70_reset_and_hazards.md R185).
-/

namespace Sys2Proof.Machine

/-- The three instants inside a tick (R141): which event comes next, and which have come before it. -/
theorem phase_of_showEvents_eq {m : Memory} {i : Position} {before after : List OutEvent} {ev : OutEvent}
    (h : showEvents m i = before ++ ev :: after) :
    (before = [] ∧ ev = .digEn 0b000#3) ∨
    (before = [.digEn 0b000#3] ∧ ev = .segOut (m.read i)) ∨
    (before = [.digEn 0b000#3, .segOut (m.read i)] ∧ ev = .digEn (onehot3 i)) := by
  match before with
  | [] => cases h; exact .inl ⟨rfl, rfl⟩
  | [_] => cases h; exact .inr (.inl ⟨rfl, rfl⟩)
  | [_, _] => cases h; exact .inr (.inr ⟨rfl, rfl⟩)
  | _ :: _ :: _ :: _ => simp [showEvents] at h

/-- When a tick drives the segment lines, every digit line is off, whatever the lines were. -/
theorem digitsOff_before_segOut {m : Memory} {i : Position} {before after : List OutEvent} {v : Pattern}
    (h : showEvents m i = before ++ .segOut v :: after) (l : Pattern × DigitLines) :
    (linesAfter l before).2 = 0b000#3 := by
  obtain ⟨-, hev⟩ | ⟨rfl, -⟩ | ⟨-, hev⟩ := phase_of_showEvents_eq h
  · cases hev
  · rfl
  · cases hev

/-- When a tick turns a digit line on, the segment lines hold the pattern shown and every digit line is off. -/
theorem linesAfter_before_digitOn {m : Memory} {i : Position} {before after : List OutEvent} {e : DigitLines}
    (h : showEvents m i = before ++ .digEn e :: after) (he : e ≠ 0b000#3) (l : Pattern × DigitLines) :
    linesAfter l before = (m.read i, 0b000#3) := by
  obtain ⟨-, hev⟩ | ⟨-, hev⟩ | ⟨rfl, -⟩ := phase_of_showEvents_eq h
  · cases hev; exact absurd rfl he
  · cases hev
  · rfl

/-- Settles O27: `execRefreshTick_eq` gives the events emitted, and each phase of them its lines. -/
theorem tickBreaksBeforeItMakes : Obligations.TickBreaksBeforeItMakes := by
  intro s t h
  rw [exec_refreshTick, execRefreshTick_eq] at h
  cases h
  exact ⟨showEvents s.fb (nextPosition s.idx), rfl,
    fun _ _ _ hseg => digitsOff_before_segOut hseg _,
    fun _ _ _ hdig he => linesAfter_before_digitOn hdig he _⟩

end Sys2Proof.Machine
end

section
/-!
PROOFS. The encoding (30_encoding.md): the fields as numbers, the decoder of R69 and its inversion, and the round trip both
ways.
-/

namespace Sys2Proof

/-! ### Fields and operands as numbers -/

theorem opField_eq_iff (w : CmdWord) (k : BitVec 4) : opField w = k ↔ w.toNat / 2 ^ 28 = k.toNat := by
  rw [← opField_toNat, BitVec.toNat_inj]

theorem rsvField_eq_zero_iff (w : CmdWord) : rsvField w = 0#4 ↔ w.toNat / 2 ^ 24 % 16 = 0 := by
  rw [← rsvField_toNat, ← BitVec.toNat_inj]; rfl

theorem expField_eq_zero_iff (w : CmdWord) : expField w = 0#8 ↔ w.toNat / 2 ^ 16 % 256 = 0 := by
  rw [← expField_toNat, ← BitVec.toNat_inj]; rfl

theorem valField_eq_zero_iff (w : CmdWord) : valField w = 0#16 ↔ w.toNat % 2 ^ 16 = 0 := by
  rw [← valField_toNat, ← BitVec.toNat_inj]; rfl

/-- CMD[23:16] and CMD[15:0] are both zero exactly when CMD[23:0] is (R67(d)). -/
theorem low24_eq_zero_iff (n : Nat) : (n / 2 ^ 16 % 256 = 0 ∧ n % 2 ^ 16 = 0) ↔ n % 2 ^ 24 = 0 := by
  omega

/-- `sext_N` of R7 is the two's complement reading of a field. -/
theorem toInt_eq_sext {n : Nat} (hn : 0 < n) (x : BitVec n) : x.toInt = Machine.sext n x.toNat := by
  obtain ⟨k, rfl⟩ := Nat.exists_eq_succ_of_ne_zero hn.ne'
  have hlt : 2 * x.toNat < 2 ^ (k + 1) ↔ x.toNat < 2 ^ k := by rw [Nat.pow_succ]; omega
  rw [BitVec.toInt_eq_toNat_cond, Machine.sext]
  simp only [hlt, Nat.succ_eq_add_one, Nat.add_sub_cancel, Nat.cast_pow, Nat.cast_ofNat]

theorem valOperand_eq_sext (w : CmdWord) : valOperand w = Machine.sext 16 (w.toNat % 2 ^ 16) := by
  rw [valOperand, toInt_eq_sext (by decide), valField_toNat]

theorem expOperand_eq_sext (w : CmdWord) : expOperand w = Machine.sext 8 (w.toNat / 2 ^ 16 % 256) := by
  rw [expOperand, toInt_eq_sext (by decide), expField_toNat]

/-! ### The decoder of the command port -/

/-- The words the command decoder reads an operation from, by their fields (R62, R69). -/
theorem decode_command_cases {w : CmdWord} {i : Instr} (h : decode (.command w) = .instr i) :
    rsvField w = 0#4 ∧
      ((opField w = 1#4 ∧ expField w = 0#8 ∧ i = .displayInteger (valOperand w)) ∨
       (opField w = 2#4 ∧ i = .displayFixedPoint (valOperand w) (expOperand w)) ∨
       (opField w = 3#4 ∧ expField w = 0#8 ∧ valField w = 0#16 ∧ i = .displayError)) := by
  simp only [decode, decodeCommand] at h
  split at h
  · cases h
  next hrsv =>
  refine ⟨not_not.mp hrsv, ?_⟩
  split at h
  · next hop =>
    split at h
    · next hexp => cases h; exact .inl ⟨hop, hexp, rfl⟩
    · cases h
  split at h
  · next hop => cases h; exact .inr (.inl ⟨hop, rfl⟩)
  split at h
  · next hop =>
    split at h
    · next hz => cases h; exact .inr (.inr ⟨hop, hz.1, hz.2, rfl⟩)
    · cases h
  · cases h

/-- An operation read from a command word is well-formed and encodes to that word. -/
theorem wf_and_encode_of_decode_command {w : CmdWord} {i : Instr} (h : decode (.command w) = .instr i) :
    i.wf = true ∧ encode i = .command w := by
  obtain ⟨hrsv, ⟨hop, hexp, rfl⟩ | ⟨hop, rfl⟩ | ⟨hop, hexp, hval, rfl⟩⟩ := decode_command_cases h
  all_goals have hw := packCommand_fields w hrsv
  · refine ⟨decide_eq_true (fitsVal_valOperand w), ?_⟩
    rw [hop, hexp] at hw
    rw [encode, valOperand, BitVec.ofInt_toInt, hw]
  · refine ⟨decide_eq_true ⟨fitsVal_valOperand w, fitsExp_expOperand w⟩, ?_⟩
    rw [hop] at hw
    rw [encode, valOperand, expOperand, BitVec.ofInt_toInt, BitVec.ofInt_toInt, hw]
  · refine ⟨rfl, ?_⟩
    rw [hop, hexp, hval] at hw
    rw [encode, hw]

/-! ### The obligations -/

/-- Settles O1, one operation at a time, by the round-trip laws. -/
theorem decodeOfEncodeIsTheOperation : Obligations.DecodeOfEncodeIsTheOperation
  | .displayInteger v => Laws.RoundTrip.displayInteger v
  | .displayFixedPoint m e => Laws.RoundTrip.displayFixedPoint m e
  | .displayError => Laws.RoundTrip.displayError
  | .refreshTick => Laws.RoundTrip.refreshTick
  | .bcdEncode v => Laws.RoundTrip.bcdEncode v
  | .segMap c => Laws.RoundTrip.segMap c

/-- Settles O2: a command word by `decode_command_cases`, the words of the other ports by their width. -/
theorem encodeOfDecodeIsTheWord : Obligations.EncodeOfDecodeIsTheWord := by
  intro p i h
  match p with
  | .command w => exact wf_and_encode_of_decode_command h
  | .timer true => cases h; exact ⟨rfl, rfl⟩
  | .bin v =>
    cases h
    exact ⟨decide_eq_true v.isLt, by rw [encode, BitVec.ofNat_toNat, BitVec.setWidth_eq]⟩
  | .sym c =>
    cases h
    exact ⟨decide_eq_true c.isLt, by rw [encode, BitVec.ofNat_toNat, BitVec.setWidth_eq]⟩

/-- Settles O3: each field test of the decoder is the same test on the word as a number. -/
theorem commandDecoderFollowsPseudocode : Obligations.CommandDecoderFollowsPseudocode := by
  intro w
  simp only [decode, decodeCommand, ne_eq, rsvField_eq_zero_iff, opField_eq_iff, BitVec.reduceToNat, expField_eq_zero_iff,
    valField_eq_zero_iff, low24_eq_zero_iff, valOperand_eq_sext, expOperand_eq_sext]

/-- Settles O5, by evaluating the decoder and the encoder on each row. -/
theorem workedEncodingsDecode : Obligations.WorkedEncodingsDecode := by
  unfold Obligations.WorkedEncodingsDecode
  decide

end Sys2Proof
end

section
/-!
PROOFS. What a step does, in one record of facts (`StepEffect`), from which every statement about steps and runs is read off.
-/

namespace Sys2Proof.Machine

/-! ### The input of a step -/

/-- The input `x` is what the next step is presented with, and `rest` is to come after it: the head of the list, or the idle
input where none is left (log 1). -/
def State.Presents (s : State) (x : StepInput) (rest : List StepInput) : Prop :=
  s.inputs = x :: rest ∨ (s.inputs = [] ∧ x = idleInput ∧ rest = [])

theorem exists_presents (s : State) : ∃ x rest, s.Presents x rest := by
  cases h : s.inputs with
  | nil => exact ⟨_, _, .inr ⟨h, rfl, rfl⟩⟩
  | cons x rest => exact ⟨x, rest, .inl h⟩

theorem step_of_presents {s : State} {x : StepInput} {rest : List StepInput} (h : s.Presents x rest) :
    step s = stepOn x (s.setInputs rest) := by
  obtain h | ⟨h, rfl, rfl⟩ := h
  · exact step_cons s x rest h
  · rw [step_nil s h, State.setInputs, ← h]; rfl

/-! ### The framebuffer after a step -/

theorem fbAfter_of_ignored {w : CmdWord} {why : Ignored} (h : decode (.command w) = .ignored why) (g : GlyphTable)
    (m : Memory) (due : Bool) : fbAfter g m (.ports true w due) = m := by
  simp only [fbAfter, h]

theorem fbAfter_of_command {w : CmdWord} {i : Instr} {g : GlyphTable} {f : Frame} (h : decode (.command w) = .instr i)
    (hf : commandFrame g i = some f) (m : Memory) (due : Bool) : fbAfter g m (.ports true w due) = Memory.ofFrame f := by
  simp only [fbAfter, h, hf]

/-- A step leaves the framebuffer as it was or commits the frame of a command. -/
theorem fbAfter_eq_or_frame (g : GlyphTable) (m : Memory) (x : StepInput) :
    fbAfter g m x = m ∨ ∃ i f, commandFrame g i = some f ∧ fbAfter g m x = Memory.ofFrame f := by
  match x with
  | .ports true w due =>
    cases h : decode (.command w) with
    | ignored why => exact .inl (fbAfter_of_ignored h g m due)
    | instr i =>
      obtain ⟨f, hf⟩ := commandFrame_of_decode g h
      exact .inr ⟨i, f, hf, fbAfter_of_command h hf m due⟩
  | .ports false _ _ => exact .inl rfl
  | .bin _ => exact .inl rfl
  | .sym _ => exact .inl rfl

/-! ### The effect of a step -/

/-- What a step from `s` on the input `x`, with `rest` to come, has done when it has reached `t`. The framebuffer a tick has
seen is the one from before or from after the commit of a command in the same step (R47). -/
structure StepEffect (s : State) (x : StepInput) (rest : List StepInput) (t : State) : Prop where
  fb : t.fb = fbAfter s.config.glyph s.fb x
  config : t.config = s.config
  inputs : t.inputs = rest
  rearm : t.timerRearm = ticks x
  quiet : ticks x = false → t.idx = s.idx ∧ t.segOut = s.segOut ∧ t.digEn = s.digEn ∧ t.events = s.events
  ticked : ticks x = true → ∃ seen, (seen = s.fb ∨ seen = fbAfter s.config.glyph s.fb x) ∧ t.idx = nextPosition s.idx ∧
    t.segOut = seen.read t.idx ∧ t.digEn = onehot3 t.idx ∧ t.events = s.events ++ showEvents seen t.idx

/-- On every input with a meaning a step completes with its effect. -/
theorem stepOn_effect {x : StepInput} (hm : hasMeaning x = true) (s : State) (rest : List StepInput) :
    ∃ t, stepOn x (s.setInputs rest) = .next t ∧ StepEffect s x rest t := by
  cases hx : ticks x with
  | false =>
    refine ⟨_, stepOn_noTick x _ hm hx, ?_⟩
    exact { fb := rfl, config := rfl, inputs := rfl, rearm := hx.symm, quiet := fun _ => ⟨rfl, rfl, rfl, rfl⟩,
            ticked := fun h => absurd (hx.symm.trans h) (by decide) }
  | true =>
    obtain ⟨seen, n, hseen, h⟩ := stepOn_tick x (s.setInputs rest) hx
    refine ⟨_, h, ?_⟩
    exact { fb := rfl, config := rfl, inputs := rfl, rearm := hx.symm,
            quiet := fun h => absurd (hx.symm.trans h) (by decide), ticked := fun _ => ⟨seen, hseen, rfl, rfl, rfl, rfl⟩ }

/-- A step that has a next state has had the effect of the input it was presented with. -/
theorem effect_of_step {s t : State} {x : StepInput} {rest : List StepInput} (hp : s.Presents x rest)
    (h : step s = .next t) : StepEffect s x rest t := by
  rw [step_of_presents hp] at h
  cases hm : hasMeaning x with
  | false => rw [stepOn_noMeaning x _ hm] at h; cases h
  | true =>
    obtain ⟨t', ht', heff⟩ := stepOn_effect hm s rest
    rw [ht'] at h
    cases h
    exact heff

/-- The same, without naming the input. -/
theorem exists_effect_of_step {s t : State} (h : step s = .next t) : ∃ x rest, StepEffect s x rest t := by
  obtain ⟨x, rest, hp⟩ := exists_presents s
  exact ⟨x, rest, effect_of_step hp h⟩

/-- On an input with a meaning a step completes. -/
theorem exists_next_of_presents {s : State} {x : StepInput} {rest : List StepInput} (hp : s.Presents x rest)
    (hm : hasMeaning x = true) : ∃ t, step s = .next t ∧ StepEffect s x rest t := by
  rw [step_of_presents hp]
  exact stepOn_effect hm s rest

/-- The one input without a meaning is a `BIN` value above 999 (R82). -/
theorem eq_bin_of_noMeaning {x : StepInput} (h : hasMeaning x = false) : ∃ v, x = .bin v ∧ 999 < v.toNat := by
  match x, h with
  | .bin v, h => exact ⟨v, rfl, by simpa [hasMeaning] using h⟩

/-! ### The obligations -/

/-- Settles O40: the parameters are part of every step's effect. -/
theorem parametersNeverChange : Obligations.ParametersNeverChange := by
  intro s t h
  obtain ⟨_, _, heff⟩ := exists_effect_of_step h
  exact heff.config

/-- Settles O32: the outputs and the lines are part of every step's effect. -/
theorem linesHoldBetweenTicks : Obligations.LinesHoldBetweenTicks := by
  intro s t x rest hx h
  have heff := effect_of_step (.inl hx) h
  exact ⟨heff.rearm, heff.inputs, heff.quiet⟩

/-- Settles O38: an input with a meaning has an effect, and the one without is named by `eq_bin_of_noMeaning`. -/
theorem onlyBcdAbove999HasNoNextState : Obligations.OnlyBcdAbove999HasNoNextState := by
  intro s
  obtain ⟨x, rest, hp⟩ := exists_presents s
  cases hm : hasMeaning x with
  | true =>
    obtain ⟨t, ht, -⟩ := exists_next_of_presents hp hm
    exact .inl ⟨t, ht⟩
  | false =>
    obtain ⟨v, rfl, hv⟩ := eq_bin_of_noMeaning hm
    obtain hin | ⟨-, hidle, -⟩ := hp
    · exact .inr ⟨v, rest, hin, hv, (step_cons s _ _ hin).trans (stepOn_noMeaning _ _ hm)⟩
    · cases hidle

/-- Settles O21: the framebuffer after the step is the command's frame, and its glyph table is the same in both states. -/
theorem framebufferDependsOnTheCommandAlone : Obligations.FramebufferDependsOnTheCommandAlone := by
  intro s s' t t' w due due' rest rest' i hg hi hs hs' ht ht'
  obtain ⟨f, hf⟩ := commandFrame_of_decode s.config.glyph hi
  rw [(effect_of_step (.inl hs) ht).fb, (effect_of_step (.inl hs') ht').fb, fbAfter_of_command hi hf,
    fbAfter_of_command hi (hg ▸ hf)]

/-- Settles O48: a step on one input has the same parts whatever outputs and inputs to come stand beside the block. -/
theorem stepIsTheBlocksStepOnItsInput : Obligations.StepIsTheBlocksStepOnItsInput := by
  intro s x rest hp
  rw [step_of_presents hp, blockStep]
  cases hm : hasMeaning x with
  | false => rw [stepOn_noMeaning x _ hm, stepOn_noMeaning x _ hm]; rfl
  | true =>
    cases hx : ticks x with
    | false =>
      rw [stepOn_noTick x _ hm hx, stepOn_noTick x _ hm hx]
      simp [closeStep, meetsBoth_of_noTick hx, noOutputs, State.setInputs]
    | true =>
      rw [stepOn_tick_eq x _ hx, stepOn_tick_eq x _ hx]
      rfl

end Sys2Proof.Machine
end

section
/-!
PROOFS. The display invariant (10_state.md R28, 43_mux_scheduler.md R142, R146, 70_reset_and_hazards.md R185).
-/

namespace Sys2Proof.Machine

/-! ### The lines and break before make along a sequence of events -/

theorem linesAfter_append : ∀ (l : Pattern × DigitLines) (a b : List OutEvent),
    linesAfter l (a ++ b) = linesAfter (linesAfter l a) b
  | _, [], _ => rfl
  | (_, e), .segOut v :: a, b => linesAfter_append (v, e) a b
  | (p, _), .digEn v :: a, b => linesAfter_append (p, v) a b

theorem breakBeforeMake_append : ∀ (p : Pattern) (e : DigitLines) (a b : List OutEvent),
    breakBeforeMake e (a ++ b) = (breakBeforeMake e a && breakBeforeMake (linesAfter (p, e) a).2 b)
  | _, _, [], _ => rfl
  | _, e, .segOut v :: a, b => by
    simp only [List.cons_append, breakBeforeMake, linesAfter, breakBeforeMake_append v e a b, Bool.and_assoc]
  | p, _, .digEn v :: a, b => by
    simp only [List.cons_append, breakBeforeMake, linesAfter, breakBeforeMake_append p v a b, Bool.and_assoc]

theorem popcount_onehot3 : ∀ i, popcount (onehot3 i) = 1 := by decide

/-- Whatever the lines were, a tick leaves them at its pattern and its one line. -/
theorem linesAfter_showEvents (l : Pattern × DigitLines) (m : Memory) (i : Position) :
    linesAfter l (showEvents m i) = (m.read i, onehot3 i) := rfl

/-- Whatever the digit lines were, a tick breaks before it makes (R142). -/
theorem breakBeforeMake_showEvents (e : DigitLines) (m : Memory) (i : Position) :
    breakBeforeMake e (showEvents m i) = true := by
  simp [showEvents, breakBeforeMake, popcount_onehot3]

/-- Along a break-before-make sequence at most one digit line is on, if at most one was at its start. -/
theorem popcount_linesAfter_le_one : ∀ (l : Pattern × DigitLines) (a : List OutEvent), popcount l.2 ≤ 1 →
    breakBeforeMake l.2 a = true → popcount (linesAfter l a).2 ≤ 1
  | _, [], hl, _ => hl
  | (_, e), .segOut v :: a, hl, h =>
    popcount_linesAfter_le_one (v, e) a hl (Bool.and_eq_true_iff.mp h).2
  | (p, _), .digEn v :: a, _, h => by
    obtain ⟨hv, ha⟩ := Bool.and_eq_true_iff.mp h
    have hpop : popcount v ≤ 1 := by
      simp only [Bool.or_eq_true, Bool.and_eq_true, decide_eq_true_eq] at hv
      obtain rfl | ⟨-, hone⟩ := hv
      · decide
      · exact hone.le
    exact popcount_linesAfter_le_one (p, v) a hpop ha

/-! ### The obligations -/

/-- Settles O41: a step without a tick leaves lines and events alone, and a step with one appends the events of
`showEvents`, which break before they make from any lines and leave the line of the new index on. -/
theorem everyStepKeepsTheDisplayInvariant : Obligations.EveryStepKeepsTheDisplayInvariant := by
  intro s t hs h
  obtain ⟨x, rest, heff⟩ := exists_effect_of_step h
  have hwf : t.fb.wf = true := heff.fb ▸ wf_fbAfter _ _ x hs.canonical
  cases hx : ticks x with
  | false =>
    obtain ⟨hidx, hseg, hdig, hev⟩ := heff.quiet hx
    exact { canonical := hwf
            lines := by rw [hev, hseg, hdig]; exact hs.lines
            breaks := by rw [hev]; exact hs.breaks
            enabled := by rw [hev, hdig, hidx]; exact hs.enabled }
  | true =>
    obtain ⟨seen, -, -, hseg, hdig, hev⟩ := heff.ticked hx
    exact { canonical := hwf
            lines := by rw [hev, linesAfter_append, linesAfter_showEvents, hseg, hdig]
            breaks := by
              rw [hev, breakBeforeMake_append resetSegOut, hs.breaks, breakBeforeMake_showEvents]; rfl
            enabled := by rw [hdig, hev]; simp [showEvents] }

/-- Settles O42: nothing is stored, nothing has been emitted and no line is on. -/
theorem resetMeetsTheDisplayInvariant : Obligations.ResetMeetsTheDisplayInvariant :=
  fun _ => ⟨rfl, rfl, rfl, rfl⟩

/-- Settles O43: break before make of the whole sequence is break before make of its two parts. -/
theorem atMostOneDigitEnabledAtEveryInstant : Obligations.AtMostOneDigitEnabledAtEveryInstant := by
  intro s before after hs hev
  have hreset : popcount resetLines.2 ≤ 1 := by decide
  have hparts := hs.breaks
  rw [hev, breakBeforeMake_append resetSegOut, Bool.and_eq_true] at hparts
  obtain ⟨hbefore, hafter⟩ := hparts
  refine ⟨popcount_linesAfter_le_one resetLines before hreset hbefore, ?_, ?_⟩
  · have hnow := popcount_linesAfter_le_one resetLines s.events hreset hs.breaks
    rwa [hs.lines] at hnow
  · rintro p rest rfl
    exact of_decide_eq_true (Bool.and_eq_true_iff.mp hafter).1

end Sys2Proof.Machine
end

section
/-!
PROOFS. The step on each shape of input: reserved words, the operation a word names, and a command with a tick
(20_memory.md section 4, 30_encoding.md section 3).
-/

namespace Sys2Proof.Machine

/-! ### Words and the operations they run -/

theorem runWord_of_instr {p : PortWord} {i : Instr} (h : decode p = .instr i) (s : State) : runWord p s = exec i s := by
  simp only [runWord, h]

/-- A step that is presented with a port word and nothing else runs the operation of that word. -/
theorem stepOn_inputOf {p : PortWord} {i : Instr} (h : decode p = .instr i) (s : State) :
    stepOn (inputOf p) s = exec i s.clearOutputs := by
  rw [← runWord_of_instr h]
  match p, h with
  | .command w, _ => rfl
  | .timer true, _ => rfl
  | .bin v, _ => rfl
  | .sym c, _ => rfl

theorem decodeTableWord_eq_some {nbits w : Nat} {i : Instr} (h : decodeTableWord nbits w = some i) :
    ∃ p, tablePortWord nbits w = some p ∧ decode p = .instr i := by
  unfold decodeTableWord at h
  split at h
  · cases h
  · next p hp =>
    split at h
    · next hd => cases h; exact ⟨p, hp, hd⟩
    · cases h

/-- A step with a command and a tick, whichever order the free value gives (R47). -/
theorem stepOn_command_tick {w : CmdWord} {i : Instr} (h : decode (.command w) = .instr i) (s : State) :
    stepOn (.ports true w true) s =
      if Config.commandFirst s.arbCount then andThen (exec i s.clearOutputs.nextArb) (exec .refreshTick)
      else andThen (exec .refreshTick s.clearOutputs.nextArb) (exec i) := by
  have hw : runWord (.command w) = exec i := funext (runWord_of_instr h)
  have ht : runWord (.timer true) = exec .refreshTick := funext (runWord_of_instr rfl)
  simp only [stepOn, runPorts, hw, ht, State.clearOutputs_arbCount]

/-! ### Reserved words -/

/-- R67: the reserved words are those the decoder reads nothing from. -/
theorem reservedWord_iff_ignored (w : CmdWord) : reservedWord w.toNat ↔ ∃ why, decode (.command w) = .ignored why := by
  rw [commandDecoderFollowsPseudocode w]
  unfold reservedWord
  split
  · next hrsv => exact ⟨fun _ => ⟨_, rfl⟩, fun _ => .inr (.inl hrsv)⟩
  next hrsv =>
  split
  · next hop =>
    split
    · next hexp => exact ⟨fun _ => by omega, fun ⟨_, h⟩ => nomatch h⟩
    · next hexp => exact ⟨fun _ => ⟨_, rfl⟩, fun _ => .inr (.inr (.inl ⟨hop, hexp⟩))⟩
  split
  · next hop => exact ⟨fun _ => by omega, fun ⟨_, h⟩ => nomatch h⟩
  split
  · next hop =>
    split
    · next hlow => exact ⟨fun _ => by omega, fun ⟨_, h⟩ => nomatch h⟩
    · next hlow => exact ⟨fun _ => ⟨_, rfl⟩, fun _ => .inr (.inr (.inr ⟨hop, hlow⟩))⟩
  · exact ⟨fun _ => ⟨_, rfl⟩, fun _ => .inl (by omega)⟩

/-- A reserved word that meets a tick is the tick's alone, in either order. -/
theorem stepOn_ignored_tick {w : CmdWord} {why : Ignored} (h : decode (.command w) = .ignored why) (s : State) :
    stepOn (.ports true w true) s = exec .refreshTick s.clearOutputs.nextArb := by
  rw [exec_refreshTick, execRefreshTick_eq, stepOn_tick_eq _ _ rfl, tickSees, fbAfter_of_ignored h, ite_self]
  rfl

/-- Settles O4: a reserved word leaves the framebuffer as it was (`fbAfter_of_ignored`), so the step is the quiet step or the
tick. -/
theorem reservedCommandWordsAreIgnored : Obligations.ReservedCommandWordsAreIgnored := by
  refine ⟨reservedWord_iff_ignored, fun s w rest hs hw => ?_, fun s w rest hs hw => ?_⟩
  all_goals obtain ⟨why, hd⟩ := (reservedWord_iff_ignored w).mp hw
  · rw [step_cons s _ rest hs, stepOn_noTick _ _ rfl rfl, fbAfter_of_ignored hd]
    rfl
  · rw [step_cons s _ rest hs, stepOn_ignored_tick hd, exec_refreshTick, execRefreshTick_eq]
    exact ⟨rfl, _, rfl, rfl, rfl, rfl, rfl, rfl⟩

/-! ### The obligations -/

/-- Settles O33: each input is that of a port word, and `stepOn_inputOf` runs the word's operation. -/
theorem stepRunsTheDecodedOperation : Obligations.StepRunsTheDecodedOperation := by
  intro s rest i
  refine ⟨fun w hs hd => ?_, fun w hs => ?_, fun v hs => ?_, fun c hs => ?_⟩
  all_goals rw [step_cons s _ rest hs]
  · exact stepOn_inputOf (p := .command w) hd _
  · exact stepOn_inputOf (p := .timer true) rfl _
  · exact stepOn_inputOf (p := .bin v) rfl _
  · exact stepOn_inputOf (p := .sym c) rfl _

/-- Settles O34: nothing presented and an unstrobed word are the two idle shapes of a step. -/
theorem stepWithoutInputsChangesNothing : Obligations.StepWithoutInputsChangesNothing :=
  ⟨step_nil, fun s _ rest hs => (step_cons s _ rest hs).trans rfl⟩

/-- Settles O35: the word stands at the head of the inputs of the state it is presented to. -/
theorem presentedTableWordRunsNext : Obligations.PresentedTableWordRunsNext := by
  intro s nbits w i h
  obtain ⟨p, hp, hd⟩ := decodeTableWord_eq_some h
  have hs : s.withFetchWord nbits w = s.setInputs (inputOf p :: s.inputs) := by
    simp only [State.withFetchWord, presentTableWord, hp]
  rw [hs, step_cons _ (inputOf p) s.inputs rfl, stepOn_inputOf hd]
  rfl

theorem andThen_eq_next {o : Host.Outcome State Fault Refusal} {k : State → Host.Outcome State Fault Refusal}
    {mid t : State} (h : o = .next mid) (h' : k mid = .next t) : andThen o k = .next t := by
  rw [h]; exact h'

/-- Settles O36: in either order the first operation completes, and the second runs on its next state. -/
theorem commandAndTickTakeOneOfTwoOrders : Obligations.CommandAndTickTakeOneOfTwoOrders := by
  intro s w rest i hs hd s0
  obtain ⟨f, hf⟩ := commandFrame_of_decode s.config.glyph hd
  have hcommand (u : State) (hu : u.config = s.config) := exec_command i u f (hu ▸ hf)
  have htick (u : State) := (exec_refreshTick u).trans (execRefreshTick_eq u)
  have hstep : step s = if Config.commandFirst s.arbCount then andThen (exec i s0) (exec .refreshTick)
      else andThen (exec .refreshTick s0) (exec i) := by
    rw [step_cons s _ rest hs, stepOn_command_tick hd]; rfl
  rw [hstep]
  split
  · exact ⟨_, _, andThen_eq_next (hcommand s0 rfl) (htick _), hcommand s0 rfl, htick _⟩
  · exact ⟨_, _, andThen_eq_next (htick s0) (hcommand _ rfl), htick s0, hcommand _ rfl⟩

/-- Settles O37: the effect of the step has the command's frame and the tick's lines, and what the tick saw was the
framebuffer from before or from after the commit. -/
theorem sameStepCommandAndTickBothTakeEffect : Obligations.SameStepCommandAndTickBothTakeEffect := by
  intro s w rest i f hs hd hf
  obtain ⟨t, ht, heff⟩ := exists_next_of_presents (.inl hs) rfl
  have hfb : fbAfter s.config.glyph s.fb (.ports true w true) = Memory.ofFrame f := fbAfter_of_command hd hf s.fb true
  obtain ⟨seen, hseen, hidx, hseg, hdig, hev⟩ := heff.ticked rfl
  refine ⟨t, ht, ?_, hidx, hdig, heff.rearm, heff.inputs, ?_, ?_⟩
  · rw [heff.fb, hfb, frame_ofFrame]
  · rw [hseg]
    obtain rfl | rfl := hseen
    · exact .inr rfl
    · exact .inl (by rw [hfb, read_ofFrame])
  · rw [hev, hseg, hdig, showEvents]

/-- Settles O22: a command commits its frame whatever was in the framebuffer, so twice is once (R46). -/
theorem repeatedCommandChangesNothing : Obligations.RepeatedCommandChangesNothing := by
  intro i s t hi h
  obtain ⟨f, hf⟩ := Option.isSome_iff_exists.mp hi
  rw [exec_command i s f hf] at h
  cases h
  exact exec_command i _ f hf

end Sys2Proof.Machine
end

section
/-!
PROOFS. The framebuffer as a store (20_memory.md), the frame of every operation (10_state.md section 2), and what reset and
restart leave (70_reset_and_hazards.md section 1).
-/

namespace Sys2Proof.Machine

/-- Settles O23: a write is the canonical list of the content with one position replaced. -/
theorem framebufferReadAfterWrite : Obligations.FramebufferReadAfterWrite := by
  intro m i j p
  refine ⟨?_, wf_ofFrame _⟩
  rw [Memory.write, read_ofFrame, Frame.get_set, get_frame]

/-- Settles O24, by `wfFrom_ext` from position 0 on. -/
theorem equalReadsAreEqualFramebuffers : Obligations.EqualReadsAreEqualFramebuffers :=
  fun m m' => wfFrom_ext m m' 0

theorem exec_segMap (c : Nat) (s : State) : exec (.segMap c) s = .next (s.showPat (segMap s.config.glyph c)) := rfl

/-- Settles O39: each operation's next state, by its own law, differs from the state before in its own fields only. -/
theorem operationsChangeOnlyTheirOwn : Obligations.OperationsChangeOnlyTheirOwn := by
  intro i s hv
  match i with
  | .displayInteger v => exact ⟨_, execDisplayInteger_eq v s, rfl⟩
  | .displayFixedPoint m e => exact ⟨_, execDisplayFixedPoint_eq m e s, rfl⟩
  | .displayError => exact ⟨_, execDisplayError_eq s, rfl⟩
  | .refreshTick => exact ⟨_, (exec_refreshTick s).trans (execRefreshTick_eq s), fun _ => rfl, rfl⟩
  | .bcdEncode v =>
    exact ⟨_, exec_bcdEncode_of_inBcdContract (decide_eq_true (hv v rfl)) s, fun _ => rfl, rfl⟩
  | .segMap c => exact ⟨_, exec_segMap c s, fun _ => rfl, rfl⟩

/-- Settles O45: `State.reset` is `State.resetOf` of the default parameters. -/
theorem resetLeavesTheSpecifiedValues : Obligations.ResetLeavesTheSpecifiedValues :=
  ⟨read_nil, rfl, rfl, rfl, rfl, rfl⟩

/-- Settles O46: a restart is `State.resetOf` of the parameters the state has. -/
theorem restartResetsEveryElement : Obligations.RestartResetsEveryElement :=
  fun _ => ⟨read_nil, rfl, rfl, rfl, rfl, rfl⟩

end Sys2Proof.Machine
end

section
/-!
PROOFS. Runs over several inputs (20_memory.md R48, R49, 43_mux_scheduler.md sections 1 and 4).
-/

namespace Sys2Proof.Machine

/-- A run whose first step is `s` to `t` goes on from `t`. -/
theorem run_succ_of_step {s t : State} (h : step s = .next t) (k : Nat) : core.run (k + 1) s = core.run k t := by
  have hcore : core.step s = .next t := h
  simp only [Host.Core.run, hcore]

/-! ### Ticks only -/

/-- A step that samples a tick alone. -/
theorem step_of_tick {s : State} {w : CmdWord} {rest : List StepInput} (h : s.inputs = .ports false w true :: rest) :
    ∃ t, step s = .next t ∧ t.fb = s.fb ∧ t.idx = s.idx + 1 ∧ t.inputs = rest ∧
      t.events = s.events ++ showEvents s.fb (s.idx + 1) := by
  obtain ⟨t, ht, heff⟩ := exists_next_of_presents (.inl h) rfl
  obtain ⟨seen, hseen, hidx, -, -, hev⟩ := heff.ticked rfl
  obtain rfl : seen = s.fb := hseen.elim id id
  rw [nextPosition_eq_add_one] at hidx
  exact ⟨t, ht, heff.fb, hidx, heff.inputs, hidx ▸ hev⟩

/-- Settles O28: three ticks in a row, each by `step_of_tick`. -/
theorem threeTicksShowEveryPosition : Obligations.ThreeTicksShowEveryPosition := by
  intro s w0 w1 w2 rest hs
  obtain ⟨s1, h1, hfb1, hidx1, hin1, hev1⟩ := step_of_tick hs
  obtain ⟨s2, h2, hfb2, hidx2, hin2, hev2⟩ := step_of_tick hin1
  obtain ⟨s3, h3, hfb3, hidx3, hin3, hev3⟩ := step_of_tick hin2
  have hround : ∀ i : Position, i + 1 + 1 = i + 2 ∧ i + 2 + 1 = i := by decide
  have hi2 : s2.idx = s.idx + 2 := by rw [hidx2, hidx1, (hround s.idx).1]
  have hi3 : s3.idx = s.idx := by rw [hidx3, hi2, (hround s.idx).2]
  refine ⟨s3, ?_, hi3, by rw [hfb3, hfb2, hfb1], hin3, ?_⟩
  · rw [run_succ_of_step h1, run_succ_of_step h2, run_succ_of_step h3]; rfl
  · rw [hev3, ← hidx3, hi3, hev2, ← hidx2, hi2, hev1, hfb2, hfb1]

/-- Settles O29: the three ticks of O28, from the reset state. -/
theorem firstTicksAfterReset : Obligations.FirstTicksAfterReset := by
  obtain ⟨t, ht, -, -, -, hev⟩ := threeTicksShowEveryPosition (State.reset.setInputs _) 0 0 0 [] rfl
  exact ⟨t, ht, hev.trans (by decide)⟩

/-! ### Any inputs with a meaning -/

/-- A relation between the start and the end of a run: it holds of the run over no input, and it goes back over a step. -/
theorem run_inputs_induction {R : State → State → Prop} (refl : ∀ s, s.inputs = [] → R s s)
    (head : ∀ s t u x rest, s.inputs = x :: rest → StepEffect s x rest t → R t u → R s u) (s : State)
    (hm : ∀ x ∈ s.inputs, hasMeaning x = true) :
    ∃ u, core.run s.inputs.length s = .next u ∧ u.inputs = [] ∧ R s u := by
  generalize hl : s.inputs = l at hm
  induction l generalizing s with
  | nil => exact ⟨s, rfl, hl, refl s hl⟩
  | cons x rest ih =>
    obtain ⟨t, ht, heff⟩ := exists_next_of_presents (.inl hl) (hm x List.mem_cons_self)
    obtain ⟨u, hrun, hu, hR⟩ := ih t heff.inputs fun y hy => hm y (List.mem_cons_of_mem x hy)
    exact ⟨u, (run_succ_of_step ht rest.length).trans hrun, hu, head s t u x rest hl heff hR⟩

/-- Settles O31: every step's framebuffer content is `frameAfter` of its input, whatever the tick did. -/
theorem framebufferHoldsTheLastCommand : Obligations.FramebufferHoldsTheLastCommand := by
  intro s hm
  obtain ⟨u, hrun, -, hframe, hconfig⟩ := run_inputs_induction
    (R := fun s u => u.fb.frame = s.inputs.foldl (frameAfter s.config.glyph) s.fb.frame ∧ u.config = s.config)
    (fun s hs => ⟨by rw [hs]; rfl, rfl⟩)
    (fun s t u x rest hs heff ⟨hframe, hconfig⟩ => by
      refine ⟨?_, hconfig.trans heff.config⟩
      rw [hframe, heff.inputs, heff.config, heff.fb, frame_fbAfter, hs, List.foldl_cons]) s hm
  exact ⟨u, hrun, hframe, hconfig⟩

theorem ticksDue_cons (x : StepInput) (l : List StepInput) :
    ticksDue (x :: l) = (if ticks x then 1 else 0) + ticksDue l := by
  cases h : ticks x <;> simp [ticksDue, h, Nat.add_comm]

/-- What a run from `s` to `u` has done when `n` of its steps have ticked (R140, R143, R146). -/
structure Refreshed (n : Nat) (s u : State) : Prop where
  index : u.idx.val = (s.idx.val + n) % 3
  events : u.events.length = s.events.length + 3 * n
  held : n = 0 → u.segOut = s.segOut ∧ u.digEn = s.digEn
  shown : 0 < n → u.digEn = onehot3 u.idx

theorem refreshed_zero {s u : State} (hidx : u.idx = s.idx) (hev : u.events = s.events) (hseg : u.segOut = s.segOut)
    (hdig : u.digEn = s.digEn) : Refreshed 0 s u where
  index := by rw [hidx, Nat.add_zero, Nat.mod_eq_of_lt s.idx.isLt]
  events := by rw [hev]; rfl
  held := fun _ => ⟨hseg, hdig⟩
  shown := fun h => absurd h (Nat.lt_irrefl 0)

/-- A step refreshes once if its input ticks, and not at all if it does not. -/
theorem StepEffect.refreshed {s t : State} {x : StepInput} {rest : List StepInput} (h : StepEffect s x rest t) :
    Refreshed (if ticks x then 1 else 0) s t := by
  cases hx : ticks x with
  | false =>
    obtain ⟨hidx, hseg, hdig, hev⟩ := h.quiet hx
    exact refreshed_zero hidx hev hseg hdig
  | true =>
    obtain ⟨seen, -, hidx, -, hdig, hev⟩ := h.ticked hx
    exact { index := by rw [hidx]; rfl
            events := by rw [hev, List.length_append]; rfl
            held := fun h => absurd h Nat.one_ne_zero
            shown := fun _ => hdig }

/-- Refreshes of two runs in a row add up. -/
theorem Refreshed.trans {a b : Nat} {s t u : State} (h : Refreshed a s t) (h' : Refreshed b t u) :
    Refreshed (a + b) s u where
  index := by rw [h'.index, h.index]; omega
  events := by rw [h'.events, h.events]; omega
  held := fun hn => by
    obtain ⟨hseg, hdig⟩ := h.held (by omega)
    obtain ⟨hseg', hdig'⟩ := h'.held (by omega)
    exact ⟨hseg'.trans hseg, hdig'.trans hdig⟩
  shown := fun hn => by
    rcases Nat.eq_zero_or_pos b with rfl | hb
    · have hidx : u.idx = t.idx := Fin.ext (h'.index.trans (Nat.mod_eq_of_lt t.idx.isLt))
      rw [(h'.held rfl).2, h.shown hn, hidx]
    · exact h'.shown hb

/-- Settles O30: the refreshes of the steps add up to the ticks due. -/
theorem oneRefreshForEachTickDue : Obligations.OneRefreshForEachTickDue := by
  intro s hm
  obtain ⟨u, hrun, hin, h⟩ := run_inputs_induction (R := fun s u => Refreshed (ticksDue s.inputs) s u)
    (fun s hs => by rw [hs]; exact refreshed_zero rfl rfl rfl rfl)
    (fun s t u x rest hs heff h => by
      rw [heff.inputs] at h
      rw [hs, ticksDue_cons]
      exact heff.refreshed.trans h) s hm
  exact ⟨u, hrun, hin, h.index, h.events, h.held, h.shown⟩

end Sys2Proof.Machine
end

section
/-!
PROOFS. The two pure functions and the glyph table (40_bcd_encoder.md, 41_segment_mapper.md).
-/

namespace Sys2Proof.Machine

/-- Settles O7: a nibble is a base-16 digit of the packed word (`digit_eq`), and `digit_bcdEncode` names the three. -/
theorem bcdNibblesAreDecimalDigits : Obligations.BcdNibblesAreDecimalDigits := by
  refine ⟨fun b i _ => digit_eq b i, fun v i hv hi => ?_⟩
  have hdigit : digit (bcdEncode v) i = v / 10 ^ i % 10 := by
    obtain ⟨h0, h1, h2⟩ := digit_bcdEncode v hv
    interval_cases i
    · rw [h0, Nat.pow_zero, Nat.div_one]
    · rw [h1, Nat.pow_one]
    · rw [h2]; omega
  exact ⟨hdigit, by omega⟩

/-- Settles O8: the contract test fails above 999, and a value in range has a magnitude of at most 999. -/
theorem bcdEncodeAbove999IsRefused : Obligations.BcdEncodeAbove999IsRefused := by
  refine ⟨fun v s hv => ?_, fun x hx => decide_eq_true (natAbs_le_of_inIntRange hx)⟩
  have hcontract : ¬ inBcdContract v = true := by simpa [inBcdContract] using hv
  exact if_neg hcontract

/-- The symbols in the order of their codes (R91). -/
def tableEntries (g : GlyphTable) : List Pattern :=
  [g.hex0, g.hex1, g.hex2, g.hex3, g.hex4, g.hex5, g.hex6, g.hex7, g.hex8, g.hex9,
    g.hexA, g.hexB, g.hexC, g.hexD, g.hexE, g.hexF, g.dot, g.minus, g.dash, g.blank]

/-- `SEG_MAP` is the look-up in the table, with BLANK beyond its end (R90, R93). -/
theorem segMap_eq_tableEntries (g : GlyphTable) (c : Nat) : segMap g c = (tableEntries g)[c]?.getD g.blank := by
  by_cases hc : c < 20
  · interval_cases c <;> rfl
  · obtain ⟨n, rfl⟩ := Nat.exists_eq_add_of_le (Nat.not_lt.mp hc)
    have hcode : symbolOfCode (20 + n) = none := by rw [Nat.add_comm]; rfl
    rw [List.getElem?_eq_none (by simp [tableEntries]), segMap, hcode]
    rfl

/-- Settles O9: the port shows what `segMap_eq_tableEntries` looks up. -/
theorem segMapShowsTheTableEntry : Obligations.SegMapShowsTheTableEntry := by
  refine ⟨fun _ => rfl, fun c s => ?_⟩
  rw [exec_segMap, segMap_eq_tableEntries]
  rfl

/-- Settles O10, by evaluating the default table. -/
theorem defaultGlyphTableContent : Obligations.DefaultGlyphTableContent := by
  refine ⟨?_, ?_, ?_⟩ <;> decide

/-! ### An admissible table (R95) and its decimal point (log 7) -/

section
variable {g : GlyphTable} (hg : GlyphsOk g)
include hg

theorem pointLit_digit {d : Nat} (hd : d < 10) : pointLit (segMap g d) = false := hg.1.1 ⟨d, hd⟩

theorem pointLit_minus : pointLit g.minus = false := hg.1.2

theorem blank_eq_zero : g.blank = 0x00#8 := hg.2.1.1

theorem pointLit_blank : pointLit g.blank = false := by rw [blank_eq_zero hg]; rfl

theorem segMap_ne_blank {c : Nat} (hc : c < 19) : segMap g c ≠ g.blank :=
  blank_eq_zero hg ▸ hg.2.1.2 ⟨c, hc⟩

theorem minus_ne_blank : g.minus ≠ g.blank := segMap_ne_blank hg (c := 0x11) (by decide)

theorem segMap_digit_inj {d e : Nat} (hd : d < 10) (he : e < 10) (h : segMap g d = segMap g e) : d = e := by
  by_contra hne
  exact hg.2.2.1 ⟨d, hd⟩ ⟨e, he⟩ (fun h => hne (Fin.mk.inj h)) h

theorem digit_ne_minus {d : Nat} (hd : d < 10) : segMap g d ≠ g.minus := (hg.2.2.2 ⟨d, hd⟩).1

theorem digit_ne_errR {d : Nat} (hd : d < 10) : segMap g d ≠ errR g := (hg.2.2.2 ⟨d, hd⟩).2.2

end

theorem pointLit_or (p q : Pattern) : pointLit (p ||| q) = (pointLit p || pointLit q) := BitVec.getLsbD_or

theorem pointLit_dot {g : GlyphTable} (hp : PointOk g) : pointLit g.dot = true := by rw [hp.1]; rfl

/-- R96 looks at a pattern without its decimal point: a pattern whose point is not lit stays whole. -/
theorem and_0x7F_of_unlit {p : Pattern} (h : pointLit p = false) : p &&& 0x7F#8 = p := by
  have hmask : ∀ i < 8, (0x7F#8).getLsbD i = decide (i ≠ 7) := by decide
  refine BitVec.eq_of_getLsbD_eq fun i hi => ?_
  rw [BitVec.getLsbD_and, hmask i hi]
  by_cases h7 : i = 7
  · rw [h7, show p.getLsbD 7 = false from h]; rfl
  · simp [h7]

/-- R96 does not see a point that is OR-ed in. -/
theorem or_dot_and_0x7F {g : GlyphTable} (hp : PointOk g) (p : Pattern) : (p ||| g.dot) &&& 0x7F#8 = p &&& 0x7F#8 := by
  rw [hp.1, BitVec.and_comm, BitVec.and_or_distrib_left, BitVec.and_comm 0x7F#8 p]
  exact BitVec.or_zero

/-- A point on a lit glyph is not the point alone. -/
theorem or_dot_ne_dot {g : GlyphTable} (hp : PointOk g) {p : Pattern} (hunlit : pointLit p = false) (hne : p ≠ 0x00#8) :
    p ||| g.dot ≠ g.dot := by
  intro h
  have hmasked := or_dot_and_0x7F hp p
  rw [h, and_0x7F_of_unlit hunlit, hp.1] at hmasked
  exact hne hmasked.symm

end Sys2Proof.Machine
end

section
/-!
PROOFS. The frames of the Number Formatter (42_formatter.md).
-/

namespace Sys2Proof.Machine

/-! ### `place_point` -/

theorem frame_ext {f f' : Frame} (h : ∀ j, f.get j = f'.get j) : f = f' := by
  cases f; cases f'
  exact (Frame.mk.injEq ..).mpr ⟨h 0, h 1, h 2⟩

/-- A pattern after `if F[j] == SEG_BLANK: F[j] <- SEG_HEX(0)` (R114). -/
def zeroForced (g : GlyphTable) (p : Pattern) : Pattern := if p = g.blank then segMap g 0 else p

theorem zeroForced_blank (g : GlyphTable) : zeroForced g g.blank = segMap g 0 := if_pos rfl

theorem zeroForced_of_ne_blank {g : GlyphTable} {p : Pattern} (h : p ≠ g.blank) : zeroForced g p = p := if_neg h

/-- `forceZero` is `zeroForced` at its position. -/
theorem get_forceZero_eq (g : GlyphTable) (f : Frame) (i j : Position) :
    (forceZero g f i).get j = if j = i then zeroForced g (f.get j) else f.get j := by
  rw [get_forceZero]
  by_cases hj : j = i
  · subst hj; simp [zeroForced]
  · simp [hj]

/-- `place_point(F, k)` position by position (R114). -/
theorem get_placePoint (g : GlyphTable) (f : Frame) {k : Position} (hk : k ≠ 0) (j : Position) :
    (placePoint g f k).get j =
      if j = 0 ∨ k < j then f.get j
      else zeroForced g (f.get j) ||| (if j = k then g.dot else 0x00#8) := by
  match k, hk with
  | 1, _ | 2, _ =>
    simp only [placePoint, pointRange, List.foldl_cons, List.foldl_nil, Frame.get_set, get_forceZero_eq]
    fin_cases j <;> simp

/-- Position 0 of a rendered integer is its ones digit, never BLANK. -/
theorem renderInt_get_zero_ne_blank {g : GlyphTable} (hg : GlyphsOk g) {x : Int} (hx : inIntRange x = true) :
    (renderInt g x).get 0 ≠ g.blank := by
  rw [renderInt_eq g x hx]
  exact segMap_ne_blank hg (c := x.natAbs % 10) (by omega)

/-- Settles O16, by `get_placePoint`. -/
theorem placePointForcesZerosAndSetsThePoint : Obligations.PlacePointForcesZerosAndSetsThePoint :=
  ⟨fun g f _ j hk => get_placePoint g f hk j,
    fun _ x hg hlo hhi => renderInt_get_zero_ne_blank hg ((inIntRange_iff x).mpr ⟨hlo, hhi⟩)⟩

/-! ### The frames of `display_fixed_point` -/

/-- A tens place with its zero forced is the tens digit. -/
theorem zeroForced_tens {g : GlyphTable} (hg : GlyphsOk g) (x : Int) :
    zeroForced g (shownInteger g x).p1 = segMap g (x.natAbs / 10 % 10) := by
  simp only [shownInteger]
  by_cases hm : x.natAbs < 10
  · rw [if_pos hm, zeroForced_blank, Nat.div_eq_of_lt hm]
  · rw [if_neg hm, zeroForced_of_ne_blank (segMap_ne_blank hg (by omega))]

/-- A hundreds place with its zero forced is the minus or the hundreds digit. -/
theorem zeroForced_hundreds {g : GlyphTable} (hg : GlyphsOk g) {x : Int} (hx : inIntRange x = true) :
    zeroForced g (shownInteger g x).p2 = if x < 0 then g.minus else segMap g (x.natAbs / 100) := by
  have hm := natAbs_le_of_inIntRange hx
  simp only [shownInteger]
  by_cases hneg : x < 0
  · rw [if_pos hneg, zeroForced_of_ne_blank (minus_ne_blank hg), if_pos hneg]
  rw [if_neg hneg, if_neg hneg]
  by_cases hlow : x.natAbs < 100
  · rw [if_pos hlow, zeroForced_blank, Nat.div_eq_of_lt hlow]
  · rw [if_neg hlow, zeroForced_of_ne_blank (segMap_ne_blank hg (by omega))]

/-- One decimal place (R114): the tens place forced, with the point. -/
theorem placePoint_one {g : GlyphTable} (hg : GlyphsOk g) (x : Int) :
    placePoint g (shownInteger g x) 1 = shownTenths g x := by
  refine frame_ext (forall_position ?_ ?_ ?_)
  all_goals rw [get_placePoint g _ (by decide)]
  · rfl
  · exact congrArg (· ||| g.dot) (zeroForced_tens hg x)
  · rfl

/-- Two decimal places (R114): both places forced, the point on the hundreds place. -/
theorem placePoint_two {g : GlyphTable} (hg : GlyphsOk g) {x : Int} (hx : inIntRange x = true) :
    placePoint g (shownInteger g x) 2 = shownHundredths g x := by
  refine frame_ext (forall_position ?_ ?_ ?_)
  all_goals rw [get_placePoint g _ (by decide)]
  · rfl
  · exact (BitVec.or_zero).trans (zeroForced_tens hg x)
  · exact congrArg (· ||| g.dot) (zeroForced_hundreds hg hx)

theorem formatFixedPoint_of_nonneg (g : GlyphTable) (m : Int) {e : Int} (h0 : 0 ≤ e) (h2 : e ≤ 2) :
    formatFixedPoint g m e = formatInteger g (m * 10 ^ e.toNat) := by
  have he : inExpRange e = true := (inExpRange_iff e).mpr ⟨by omega, h2⟩
  rw [formatFixedPoint, if_neg (not_not.mpr he), if_pos h0, scaled]

theorem formatFixedPoint_neg_one {g : GlyphTable} (hg : GlyphsOk g) {m : Int} (hm : inIntRange m = true) :
    formatFixedPoint g m (-1) = shownTenths g m := by
  rw [formatFixedPoint, if_neg (by decide), if_neg (by decide), if_neg (not_not.mpr hm), renderInt_eq g m hm]
  exact placePoint_one hg m

theorem formatFixedPoint_neg_two {g : GlyphTable} (hg : GlyphsOk g) {m : Int} (hm : inIntRange m = true) :
    formatFixedPoint g m (-2) = shownHundredths g m := by
  rw [formatFixedPoint, if_neg (by decide), if_neg (by decide), if_neg (not_not.mpr hm), renderInt_eq g m hm]
  exact placePoint_two hg hm

theorem formatFixedPoint_of_range (g : GlyphTable) {m e : Int}
    (h : errorClassOf (.displayFixedPoint m e) = some .range) : formatFixedPoint g m e = errorFrame g :=
  Option.some.inj (commandFrame_of_range g h)

theorem formatInteger_of_inIntRange (g : GlyphTable) {x : Int} (h : inIntRange x = true) :
    formatInteger g x = shownInteger g x := by
  rw [formatInteger_eq, if_pos h]

/-- The four frames of `display_fixed_point` under an admissible table, and the operands of each. -/
theorem formatFixedPoint_cases {g : GlyphTable} (hg : GlyphsOk g) (m e : Int) :
    (errorClassOf (.displayFixedPoint m e) = some .range ∧ formatFixedPoint g m e = errorFrame g) ∨
    (0 ≤ e ∧ e ≤ 2 ∧ inIntRange (m * 10 ^ e.toNat) = true ∧ formatFixedPoint g m e = shownInteger g (m * 10 ^ e.toNat)) ∨
    (e = -1 ∧ inIntRange m = true ∧ formatFixedPoint g m e = shownTenths g m) ∨
    (e = -2 ∧ inIntRange m = true ∧ formatFixedPoint g m e = shownHundredths g m) := by
  by_cases hr : errorClassOf (.displayFixedPoint m e) = some .range
  · exact .inl ⟨hr, formatFixedPoint_of_range g hr⟩
  rw [errorClassOf_displayFixedPoint_eq_range_iff, scaled, ← inIntRange_eq_false_iff, ← inIntRange_eq_false_iff] at hr
  push Not at hr
  obtain ⟨⟨hlo, hhi⟩, hnonneg, hneg⟩ := hr
  refine .inr ?_
  by_cases h0 : 0 ≤ e
  · have hx := eq_true_of_ne_false (hnonneg h0)
    exact .inl ⟨h0, hhi, hx, by rw [formatFixedPoint_of_nonneg g m h0 hhi, formatInteger_of_inIntRange g hx]⟩
  have hm := eq_true_of_ne_false (hneg (by omega))
  obtain rfl | rfl : e = -1 ∨ e = -2 := by omega
  · exact .inr (.inl ⟨rfl, hm, formatFixedPoint_neg_one hg hm⟩)
  · exact .inr (.inr ⟨rfl, hm, formatFixedPoint_neg_two hg hm⟩)

/-! ### The obligations about the committed frames -/

/-- Settles O11: a word with OP = 1 is an operation exactly when RSV and EXP are 0, and the committed frame is that of
`formatInteger_eq`. -/
theorem displayIntegerCommitsTheDigits : Obligations.DisplayIntegerCommitsTheDigits := by
  refine ⟨fun w hop => ?_, fun v s => ?_⟩
  · split
    · next hz =>
      rw [commandDecoderFollowsPseudocode w]
      simp only [hop, show w.toNat / 2 ^ 24 % 16 = 0 by omega, show w.toNat / 2 ^ 16 % 256 = 0 by omega]
      rfl
    · next hz => exact (reservedWord_iff_ignored w).mp (by unfold reservedWord; omega)
  · obtain ⟨t, ht, hframe, hfb⟩ := exec_command_frame (i := .displayInteger v) (s := s) rfl
    refine ⟨t, ht, hframe, ?_⟩
    simp only [hfb, formatInteger_eq, inIntRange_iff]
    rfl

/-- Settles O12: a word with OP = 2 is an operation exactly when RSV is 0, and each branch is a frame of
`formatFixedPoint`. -/
theorem displayFixedPointCommitsTheValue : Obligations.DisplayFixedPointCommitsTheValue := by
  refine ⟨fun w hop => ?_, fun m e s hg => ?_⟩
  · split
    · next hz =>
      rw [commandDecoderFollowsPseudocode w]
      simp only [hop, hz]
      rfl
    · next hz => exact (reservedWord_iff_ignored w).mp (.inr (.inl hz))
  obtain ⟨t, ht, hframe, hfb⟩ := exec_command_frame (i := .displayFixedPoint m e) (s := s) rfl
  refine ⟨t, ht, hframe, ?_⟩
  have hrange := fun h => formatFixedPoint_of_range s.config.glyph ((errorClassOf_displayFixedPoint_eq_range_iff m e).mpr h)
  rw [hfb]
  dsimp only
  split
  · next he => exact hrange (.inl he)
  next he =>
  split
  · next h0 =>
    simp only [formatFixedPoint_of_nonneg _ m h0 (show e ≤ 2 by omega), formatInteger_eq, inIntRange_iff]
    rfl
  next h0 =>
  split
  · next hm => exact hrange (.inr (.inr ⟨by omega, hm⟩))
  next hm =>
  have hm' : inIntRange m = true := (inIntRange_iff m).mpr (by omega)
  split
  · next h1 => exact h1 ▸ formatFixedPoint_neg_one hg hm'
  · next h1 =>
    obtain rfl : e = -2 := by omega
    exact formatFixedPoint_neg_two hg hm'

/-- Settles O13: a word with OP = 3 is an operation exactly when its other bits are 0, and the frame is `errorFrame`. -/
theorem displayErrorCommitsTheErrorDisplay : Obligations.DisplayErrorCommitsTheErrorDisplay := by
  refine ⟨by decide, fun w hop hw => (reservedWord_iff_ignored w).mp ?_, fun s => ?_, by decide⟩
  · have hne : w.toNat ≠ 0x30000000 := fun h => hw (BitVec.eq_of_toNat_eq h)
    unfold reservedWord
    omega
  · obtain ⟨t, ht, hframe, hfb⟩ := exec_command_frame (i := .displayError) (s := s) rfl
    exact ⟨t, ht, hframe, (frame_eq_iff _ _).mp hfb⟩

/-- Settles O17: one product, two spellings of one frame; its bound exponent by exponent. -/
theorem nonNegativeExponentsScaleExactly : Obligations.NonNegativeExponentsScaleExactly := by
  intro m e s ⟨hlo, hhi⟩ he
  constructor
  · have hframe := formatFixedPoint_of_nonneg s.config.glyph m (e := e) (by omega) (by omega)
    exact (execDisplayFixedPoint_eq m e s).trans (hframe ▸ (execDisplayInteger_eq _ s).symm)
  · obtain rfl | rfl | rfl := he
    all_goals simp only [Int.reduceToNat]; omega

/-- Settles O47: each scenario's frame, read off the frame of its command. -/
theorem sourceScenariosHold : Obligations.SourceScenariosHold := by
  intro s hg g shows
  have hshows {i : Instr} {f : Frame} (h : commandFrame g i = some f) : shows i f := by
    obtain ⟨t, ht, -, hfb⟩ := exec_command_frame h
    exact ⟨t, ht, hfb⟩
  exact ⟨hshows (congrArg some (formatInteger_of_inIntRange g rfl)),
    hshows (congrArg some (formatInteger_of_inIntRange g rfl)),
    hshows (commandFrame_of_range g (by decide)),
    hshows (congrArg some (formatFixedPoint_neg_one hg rfl)),
    hshows (congrArg some (formatFixedPoint_neg_two hg rfl))⟩

/-! ### The error display as an error signal -/

/-- A frame whose ones place is a digit is not the error display. -/
theorem ne_errorFrame_of_ones {g : GlyphTable} (hg : GlyphsOk g) {f : Frame} {x : Int}
    (h : f.p0 = segMap g (x.natAbs % 10)) : f ≠ errorFrame g := by
  intro hf
  rw [hf] at h
  exact digit_ne_errR hg (by omega) h.symm

/-- Outside RANGE neither value command's frame is the error display. -/
theorem range_of_commandFrame_eq_errorFrame {g : GlyphTable} (hg : GlyphsOk g) {i : Instr} (hi : i ≠ .displayError)
    (h : commandFrame g i = some (errorFrame g)) : errorClassOf i = some .range := by
  cases i with
  | displayInteger v =>
    cases hv : inIntRange v with
    | false => simp [errorClassOf, hv]
    | true =>
      have hf := Option.some.inj h
      rw [formatInteger_of_inIntRange g hv] at hf
      exact absurd hf (ne_errorFrame_of_ones hg rfl)
  | displayFixedPoint m e =>
    have hf : formatFixedPoint g m e = errorFrame g := Option.some.inj h
    obtain ⟨hr, -⟩ | ⟨-, -, -, hs⟩ | ⟨-, -, hs⟩ | ⟨-, -, hs⟩ := formatFixedPoint_cases hg m e
    · exact hr
    all_goals exact absurd (hs.symm.trans hf) (ne_errorFrame_of_ones hg rfl)
  | displayError => exact absurd rfl hi
  | refreshTick => cases h
  | bcdEncode v => cases h
  | segMap c => cases h

/-- Settles O15: in RANGE the frame is the error display, and outside it the ones place is a digit. -/
theorem errorDisplayMeansRangeError : Obligations.ErrorDisplayMeansRangeError := by
  intro i s t hg hi hc ht
  obtain ⟨f, hf⟩ := Option.isSome_iff_exists.mp hc
  rw [exec_command i s f hf] at ht
  cases ht
  rw [frame_ofFrame]
  constructor
  · rintro rfl
    exact range_of_commandFrame_eq_errorFrame hg hi hf
  · intro hr
    exact Option.some.inj (hf.symm.trans (commandFrame_of_range _ hr))

/-! ### The patterns the block writes, under any table -/

/-- A pattern that can carry a point: a digit or the minus. -/
def Numeral (g : GlyphTable) (p : Pattern) : Prop := (∃ d : Fin 10, p = segMap g d.val) ∨ p = g.minus

theorem numeral_digit (g : GlyphTable) {n : Nat} (h : n < 10) : Numeral g (segMap g n) := .inl ⟨⟨n, h⟩, rfl⟩

theorem Numeral.written {g : GlyphTable} {p : Pattern} : Numeral g p → WrittenPattern g p
  | .inl ⟨d, h⟩ => .inl ⟨d, .inl h⟩
  | .inr h => .inr (.inl h)

theorem Numeral.written_or_dot {g : GlyphTable} {p : Pattern} : Numeral g p → WrittenPattern g (p ||| g.dot)
  | .inl ⟨d, h⟩ => .inl ⟨d, .inr (by rw [h])⟩
  | .inr h => .inr (.inr (.inl (by rw [h])))

theorem written_blank (g : GlyphTable) : WrittenPattern g g.blank := .inr (.inr (.inr (.inl rfl)))

theorem written_errorFrame (g : GlyphTable) : ∀ j, WrittenPattern g ((errorFrame g).get j) := by
  have hR : WrittenPattern g (errR g) := .inr (.inr (.inr (.inr (.inr rfl))))
  have hE : WrittenPattern g (errE g) := .inr (.inr (.inr (.inr (.inl rfl))))
  exact forall_position hR hR hE

/-- Every place of an integer in range is a digit or the minus, or left BLANK. -/
theorem shownInteger_numeral_or_blank (g : GlyphTable) {x : Int} (hx : inIntRange x = true) :
    ∀ j, Numeral g ((shownInteger g x).get j) ∨ (shownInteger g x).get j = g.blank := by
  have hm := natAbs_le_of_inIntRange hx
  refine forall_position (.inl (numeral_digit g (n := x.natAbs % 10) (by omega))) ?_ ?_
  · simp only [shownInteger, Frame.get_one]
    split
    · exact .inr rfl
    · exact .inl (numeral_digit g (by omega))
  · simp only [shownInteger, Frame.get_two]
    split
    · exact .inl (.inr rfl)
    split
    · exact .inr rfl
    · exact .inl (numeral_digit g (by omega))

theorem written_shownInteger (g : GlyphTable) {x : Int} (hx : inIntRange x = true) (j : Position) :
    WrittenPattern g ((shownInteger g x).get j) := by
  obtain h | h := shownInteger_numeral_or_blank g hx j
  · exact h.written
  · exact h ▸ written_blank g

theorem written_formatInteger (g : GlyphTable) (x : Int) (j : Position) :
    WrittenPattern g ((formatInteger g x).get j) := by
  rw [formatInteger_eq]
  split
  · next hx => exact written_shownInteger g hx j
  · exact written_errorFrame g j

/-- Forcing a zero on BLANK leaves a digit or the minus, which can carry the point. -/
theorem written_placePoint (g : GlyphTable) {x : Int} (hx : inIntRange x = true) {k : Position} (hk : k ≠ 0)
    (j : Position) : WrittenPattern g ((placePoint g (shownInteger g x) k).get j) := by
  rw [get_placePoint g _ hk]
  split
  · exact written_shownInteger g hx j
  have hforced : Numeral g (zeroForced g ((shownInteger g x).get j)) := by
    unfold zeroForced
    split
    · exact numeral_digit g (by decide)
    · next hne => exact (shownInteger_numeral_or_blank g hx j).resolve_right hne
  split
  · exact hforced.written_or_dot
  · rw [BitVec.or_zero]
    exact hforced.written

theorem pointPosition_ne_zero (e : Int) : pointPosition e ≠ 0 := by
  unfold pointPosition
  split <;> decide

theorem written_formatFixedPoint (g : GlyphTable) (m e : Int) (j : Position) :
    WrittenPattern g ((formatFixedPoint g m e).get j) := by
  unfold formatFixedPoint
  split
  · exact written_errorFrame g j
  split
  · exact written_formatInteger g _ j
  split
  · exact written_errorFrame g j
  · next hm =>
    have hm := not_not.mp hm
    rw [renderInt_eq g m hm]
    exact written_placePoint g hm (pointPosition_ne_zero e) j

theorem written_commandFrame {g : GlyphTable} {i : Instr} {f : Frame} (h : commandFrame g i = some f) (j : Position) :
    WrittenPattern g (f.get j) := by
  cases i with
  | displayInteger v => cases h; exact written_formatInteger g v j
  | displayFixedPoint m e => cases h; exact written_formatFixedPoint g m e j
  | displayError => cases h; exact written_errorFrame g j
  | refreshTick => cases h
  | bcdEncode v => cases h
  | segMap c => cases h

/-- Settles O44: a step leaves the framebuffer or commits a command's frame, and each frame holds written patterns only. -/
theorem everyStepKeepsWrittenPatterns : Obligations.EveryStepKeepsWrittenPatterns := by
  intro s t hs h j
  obtain ⟨x, rest, heff⟩ := exists_effect_of_step h
  rw [heff.config, heff.fb]
  obtain hsame | ⟨i, f, hf, hcommit⟩ := fbAfter_eq_or_frame s.config.glyph s.fb x
  · rw [hsame]; exact hs j
  · rw [hcommit, read_ofFrame]; exact written_commandFrame hf j

end Sys2Proof.Machine
end

section
/-!
PROOFS. Reading the display (41_segment_mapper.md R96, 42_formatter.md section 5).
-/

namespace Sys2Proof.Machine

/-! ### What one position reads as -/

/-- The glyph that the digit `n` reads as. -/
def digitGlyph (n : Nat) : ReadGlyph := .digit (Fin.ofNat 10 n)

theorem placeValue_digitGlyph {n : Nat} (h : n < 10) : placeValue (digitGlyph n) = some n := by
  simp [placeValue, digitGlyph, Nat.mod_eq_of_lt h]

/-- A point OR-ed in does not change what a pattern reads as. -/
theorem readPattern_or_dot {g : GlyphTable} (hp : PointOk g) (p : Pattern) :
    readPattern g (p ||| g.dot) = readPattern g p := by
  simp only [readPattern, or_dot_and_0x7F hp]

section
variable {g : GlyphTable} (hg : GlyphsOk g)
include hg

/-- The search of R96 among the digits finds a digit's own number. -/
theorem find?_digit {n : Nat} (hn : n < 10) :
    (List.finRange 10).find? (fun d => decide (segMap g n = segMap g d.val)) = some (Fin.ofNat 10 n) := by
  have hsome : ((List.finRange 10).find? (fun d => decide (segMap g n = segMap g d.val))).isSome := by
    rw [List.find?_isSome]
    exact ⟨⟨n, hn⟩, List.mem_finRange _, decide_eq_true rfl⟩
  obtain ⟨d, hd⟩ := Option.isSome_iff_exists.mp hsome
  have hval : n = d.val := segMap_digit_inj hg hn d.isLt (by simpa using List.find?_some hd)
  rw [hd, hval, Fin.ofNat_val_eq_self]

theorem readPattern_digit {n : Nat} (hn : n < 10) : readPattern g (segMap g n) = some (digitGlyph n) := by
  simp only [readPattern, and_0x7F_of_unlit (pointLit_digit hg hn), find?_digit hg hn, digitGlyph]

theorem readPattern_minus : readPattern g g.minus = some .minus := by
  have hfind : (List.finRange 10).find? (fun d => decide (g.minus = segMap g d.val)) = none :=
    List.find?_eq_none.mpr fun d _ h => digit_ne_minus hg d.isLt (of_decide_eq_true h).symm
  simp only [readPattern, and_0x7F_of_unlit (pointLit_minus hg), hfind, if_true]

theorem readPattern_blank : readPattern g g.blank = some .blank := by
  have hfind : (List.finRange 10).find? (fun d => decide (g.blank = segMap g d.val)) = none :=
    List.find?_eq_none.mpr fun d _ h => segMap_ne_blank hg (by omega) (of_decide_eq_true h).symm
  simp only [readPattern, and_0x7F_of_unlit (pointLit_blank hg), hfind, if_neg (minus_ne_blank hg).symm, if_true]

end

/-- A position reads as a place of value `n` (log 15). -/
def PlaceReads (g : GlyphTable) (p : Pattern) (n : Nat) : Prop := ∃ b, readPattern g p = some b ∧ placeValue b = some n

theorem placeReads_digit {g : GlyphTable} (hg : GlyphsOk g) {n : Nat} (hn : n < 10) : PlaceReads g (segMap g n) n :=
  ⟨_, readPattern_digit hg hn, placeValue_digitGlyph hn⟩

theorem placeReads_blank {g : GlyphTable} (hg : GlyphsOk g) : PlaceReads g g.blank 0 :=
  ⟨_, readPattern_blank hg, rfl⟩

theorem PlaceReads.or_dot {g : GlyphTable} (hp : PointOk g) {p : Pattern} {n : Nat} (h : PlaceReads g p n) :
    PlaceReads g (p ||| g.dot) n := by
  rwa [PlaceReads, readPattern_or_dot hp]

/-! ### What a frame reads as -/

/-- A frame reads as the integer whose ones, tens, and hundreds or minus its places read as. -/
theorem readFrame_of_places {g : GlyphTable} (hg : GlyphsOk g) {f : Frame} {x : Int} (hx : inIntRange x = true)
    (h0 : f.p0 = segMap g (x.natAbs % 10)) (h1 : PlaceReads g f.p1 (x.natAbs / 10 % 10))
    (hneg : x < 0 → readPattern g f.p2 = some .minus) (hpos : 0 ≤ x → PlaceReads g f.p2 (x.natAbs / 100)) :
    readFrame g f = some x := by
  obtain ⟨hlo, hhi⟩ := (inIntRange_iff x).mp hx
  obtain ⟨b, hb, hbval⟩ := h1
  have hones : readPattern g f.p0 = some (digitGlyph (x.natAbs % 10)) := by
    rw [h0, readPattern_digit hg (by omega)]
  by_cases hsign : x < 0
  · rw [readFrame, hones, hb, hneg hsign]
    simp only [readNumber, digitGlyph, hbval, Option.map_some, Fin.val_ofNat, Option.some.injEq]
    omega
  · obtain ⟨c, hc, hcval⟩ := hpos (Int.not_lt.mp hsign)
    have hminus : c ≠ .minus := by rintro rfl; cases hcval
    rw [readFrame, hones, hb, hc]
    simp only [readNumber, digitGlyph, hbval, hcval, Fin.val_ofNat, Option.some.injEq]
    omega

theorem readPattern_signed {g : GlyphTable} (hg : GlyphsOk g) {x : Int} (h : x < 0) (p : Pattern) :
    readPattern g (if x < 0 then g.minus else p) = some .minus := by
  rw [if_pos h, readPattern_minus hg]

theorem readFrame_shownInteger {g : GlyphTable} (hg : GlyphsOk g) {x : Int} (hx : inIntRange x = true) :
    readFrame g (shownInteger g x) = some x := by
  have hm := natAbs_le_of_inIntRange hx
  refine readFrame_of_places hg hx rfl ?_ (fun h => readPattern_signed hg h _) (fun h => ?_)
  · simp only [shownInteger]
    split
    · next hlow => rw [Nat.div_eq_of_lt hlow]; exact placeReads_blank hg
    · exact placeReads_digit hg (by omega)
  · simp only [shownInteger, if_neg (Int.not_lt.mpr h)]
    split
    · next hlow => rw [Nat.div_eq_of_lt hlow]; exact placeReads_blank hg
    · exact placeReads_digit hg (by omega)

theorem readFrame_shownTenths {g : GlyphTable} (hg : GlyphsOk g) (hp : PointOk g) {x : Int} (hx : inIntRange x = true) :
    readFrame g (shownTenths g x) = some x := by
  have hm := natAbs_le_of_inIntRange hx
  refine readFrame_of_places hg hx rfl ((placeReads_digit hg (by omega)).or_dot hp)
    (fun h => readPattern_signed hg h _) (fun h => ?_)
  simp only [shownTenths, if_neg (Int.not_lt.mpr h)]
  split
  · next hlow => rw [Nat.div_eq_of_lt hlow]; exact placeReads_blank hg
  · exact placeReads_digit hg (by omega)

theorem readFrame_shownHundredths {g : GlyphTable} (hg : GlyphsOk g) (hp : PointOk g) {x : Int}
    (hx : inIntRange x = true) : readFrame g (shownHundredths g x) = some x := by
  have hm := natAbs_le_of_inIntRange hx
  refine readFrame_of_places hg hx rfl (placeReads_digit hg (by omega)) (fun h => ?_) (fun h => ?_)
  · exact (readPattern_or_dot hp _).trans (readPattern_signed hg h _)
  · simp only [shownHundredths, if_neg (Int.not_lt.mpr h)]
    exact (placeReads_digit hg (by omega)).or_dot hp

/-- Settles O18: the frame is that of the digits, each place reads as its own glyph, and the glyphs differ. -/
theorem integerReadsBack : Obligations.IntegerReadsBack := by
  intro v s t hg hlo hhi ht
  have hv : inIntRange v = true := (inIntRange_iff v).mpr ⟨hlo, hhi⟩
  rw [exec_command _ s _ rfl, formatInteger_of_inIntRange _ hv] at ht
  cases ht
  simp only [frame_ofFrame, read_ofFrame, Frame.get_zero, Frame.get_one, Frame.get_two]
  refine ⟨readFrame_shownInteger hg hv, ⟨_, readPattern_digit hg (by omega)⟩, ?_, ?_, ?_⟩
  all_goals simp only [shownInteger]
  · split
    · next hlow => simp [readPattern_blank hg, hlow]
    · next hlow => simp [readPattern_digit hg (show v.natAbs / 10 % 10 < 10 by omega), digitGlyph, hlow]
  all_goals
    split
    · next hneg => simp [readPattern_minus hg]; omega
    next hneg =>
    split
    · next hlow => simp [readPattern_blank hg]; omega
    · next hlow => simp [readPattern_digit hg (show v.natAbs / 100 < 10 by omega), digitGlyph]; omega

/-! ### The decimal point -/

theorem pointLit_signed {g : GlyphTable} (hg : GlyphsOk g) (x : Int) {p : Pattern} (h : pointLit p = false) :
    pointLit (if x < 0 then g.minus else p) = false := by
  split
  · exact pointLit_minus hg
  · exact h

theorem pointLit_blank_or_digit {g : GlyphTable} (hg : GlyphsOk g) (c : Prop) [Decidable c] {n : Nat} (hn : n < 10) :
    pointLit (if c then g.blank else segMap g n) = false := by
  split
  · exact pointLit_blank hg
  · exact pointLit_digit hg hn

theorem pointLit_errorFrame {g : GlyphTable} (hp : PointOk g) : ∀ j, pointLit ((errorFrame g).get j) = false :=
  forall_position hp.2.2 hp.2.2 hp.2.1

theorem pointLit_shownInteger {g : GlyphTable} (hg : GlyphsOk g) {x : Int} (hx : inIntRange x = true) :
    ∀ j, pointLit ((shownInteger g x).get j) = false := by
  have hm := natAbs_le_of_inIntRange hx
  exact forall_position (pointLit_digit hg (d := x.natAbs % 10) (by omega))
    (pointLit_blank_or_digit hg _ (by omega))
    (pointLit_signed hg x (pointLit_blank_or_digit hg _ (by omega)))

theorem pointLit_or_dot {g : GlyphTable} (hp : PointOk g) (p : Pattern) : pointLit (p ||| g.dot) = true := by
  rw [pointLit_or, pointLit_dot hp, Bool.or_true]

theorem pointLit_shownTenths {g : GlyphTable} (hg : GlyphsOk g) (hp : PointOk g) {x : Int} (hx : inIntRange x = true) :
    ∀ j, pointLit ((shownTenths g x).get j) = decide (j = 1) := by
  have hm := natAbs_le_of_inIntRange hx
  exact forall_position (pointLit_digit hg (d := x.natAbs % 10) (by omega)) (pointLit_or_dot hp _)
    (pointLit_signed hg x (pointLit_blank_or_digit hg _ (by omega)))

theorem pointLit_shownHundredths {g : GlyphTable} (hg : GlyphsOk g) (hp : PointOk g) (x : Int) :
    ∀ j, pointLit ((shownHundredths g x).get j) = decide (j = 2) :=
  forall_position (pointLit_digit hg (d := x.natAbs % 10) (by omega))
    (pointLit_digit hg (d := x.natAbs / 10 % 10) (by omega)) (pointLit_or_dot hp _)

/-- The point that `display_fixed_point` lights: that of position `-exponent`, for -1 and -2 with the mantissa in range. -/
theorem pointLit_formatFixedPoint {g : GlyphTable} (hg : GlyphsOk g) (hp : PointOk g) (m e : Int) (j : Position) :
    pointLit ((formatFixedPoint g m e).get j) = true ↔
      ((e = -1 ∨ e = -2) ∧ -99 ≤ m ∧ m ≤ 999) ∧ (j.val : Int) = -e := by
  obtain ⟨hr, hf⟩ | ⟨h0, -, hx, hf⟩ | ⟨rfl, hm, hf⟩ | ⟨rfl, hm, hf⟩ := formatFixedPoint_cases hg m e
  · rw [errorClassOf_displayFixedPoint_eq_range_iff] at hr
    rw [hf, pointLit_errorFrame hp j]
    simp only [Bool.false_eq_true, false_iff]
    omega
  · rw [hf, pointLit_shownInteger hg hx j]
    simp only [Bool.false_eq_true, false_iff]
    omega
  · rw [inIntRange_iff] at hm
    rw [hf, pointLit_shownTenths hg hp ((inIntRange_iff m).mpr hm), decide_eq_true_iff, Fin.ext_iff]
    omega
  · rw [inIntRange_iff] at hm
    rw [hf, pointLit_shownHundredths hg hp, decide_eq_true_iff, Fin.ext_iff]
    omega

/-- A digit or the minus, with its point, is not the point alone. -/
theorem signed_or_dot_ne_dot {g : GlyphTable} (hg : GlyphsOk g) (hp : PointOk g) (x : Int) {n : Nat} (hn : n < 10) :
    (if x < 0 then g.minus else segMap g n) ||| g.dot ≠ g.dot := by
  refine or_dot_ne_dot hp (pointLit_signed hg x (pointLit_digit hg hn)) (blank_eq_zero hg ▸ ?_)
  split
  · exact minus_ne_blank hg
  · exact segMap_ne_blank hg (by omega)

/-- No position of the frame is the point alone: an unlit one has no point, and the lit one carries a digit or the minus. -/
theorem formatFixedPoint_get_ne_dot {g : GlyphTable} (hg : GlyphsOk g) (hp : PointOk g) (m e : Int) (j : Position) :
    (formatFixedPoint g m e).get j ≠ g.dot := by
  intro hdot
  have hlit := (pointLit_formatFixedPoint hg hp m e j).mp (hdot ▸ pointLit_dot hp)
  obtain ⟨⟨he, hm⟩, hj⟩ := hlit
  have hm' := (inIntRange_iff m).mpr hm
  have hm3 := natAbs_le_of_inIntRange hm'
  obtain rfl | rfl := he
  · obtain rfl : j = 1 := Fin.ext (by omega)
    rw [formatFixedPoint_neg_one hg hm'] at hdot
    exact or_dot_ne_dot hp (pointLit_digit hg (by omega)) (blank_eq_zero hg ▸ segMap_ne_blank hg (by omega)) hdot
  · obtain rfl : j = 2 := Fin.ext (by omega)
    rw [formatFixedPoint_neg_two hg hm'] at hdot
    exact signed_or_dot_ne_dot hg hp m (by omega) hdot

/-- Settles O19: the frame of each group of exponents reads back, and `pointLit_formatFixedPoint` names its point. -/
theorem fixedPointReadsBack : Obligations.FixedPointReadsBack := by
  intro m e s t hg hp ht
  rw [exec_command _ s _ rfl] at ht
  cases ht
  have hlit := pointLit_formatFixedPoint hg hp m e
  simp only [frame_ofFrame, read_ofFrame]
  refine ⟨fun h0 h2 hlo hhi => ⟨?_, fun j => ?_⟩, fun he hlo hhi => ⟨?_, fun j => ?_⟩⟩
  · have hx := (inIntRange_iff _).mpr ⟨hlo, hhi⟩
    rw [formatFixedPoint_of_nonneg _ m h0 h2, formatInteger_of_inIntRange _ hx]
    exact readFrame_shownInteger hg hx
  · rw [← Bool.not_eq_true, hlit j]
    omega
  · have hm := (inIntRange_iff m).mpr ⟨hlo, hhi⟩
    obtain rfl | rfl := he
    · rw [formatFixedPoint_neg_one hg hm]
      exact readFrame_shownTenths hg hp hm
    · rw [formatFixedPoint_neg_two hg hm]
      exact readFrame_shownHundredths hg hp hm
  · rw [hlit j]
    exact and_iff_right ⟨he, hlo, hhi⟩

/-- Settles O20: the lit position is `-exponent` alone, and it never holds the point alone. -/
theorem pointNeverFloats : Obligations.PointNeverFloats := by
  intro m e s t hg hp ht
  rw [exec_command _ s _ rfl] at ht
  cases ht
  have hlit := pointLit_formatFixedPoint hg hp m e
  simp only [read_ofFrame]
  refine ⟨formatFixedPoint_get_ne_dot hg hp m e, fun j k hj hk => Fin.ext ?_, fun ⟨j, hj⟩ => ?_, fun hin => ?_⟩
  · rw [hlit] at hj hk
    omega
  · exact ((hlit j).mp hj).1
  · have he := hin.1
    exact ⟨⟨(-e).toNat, by omega⟩, (hlit _).mpr ⟨hin, by simp only; omega⟩⟩

end Sys2Proof.Machine
end
